-- ==== Sys2Proof/Word.lean ====
section
/-!
DEFINITION. The word types of the block (R12, R13): a byte, the 16-bit and the 32-bit register values.
-/

namespace Sys2Proof

/-- A byte is 8 bits (R13). -/
abbrev Byte := BitVec 8

/-- A 16-bit value: `node_id` (R81), a command word (R91). -/
abbrev Half := BitVec 16

/-- A 32-bit value: `msg_cnt` (R82), `crc32` (R86), the CRC accumulator (R25). -/
abbrev Word := BitVec 32

/-- A signed byte's value: an integer in `-128 .. 127` (R15, R17 b). The type itself rules out the values
on which `twos8` is not defined (R133, row U6 of 93_implementation_defined.md). -/
abbrev SByte := { i : Int // -128 ≤ i ∧ i ≤ 127 }

end Sys2Proof
end

