-- ==== Sys2Proof/Config.lean ====
section
/-!
DEFINITION. The constants of R9, fixed for this hardware. `node_id`, `meas_NA` and `MSG_CNT_FIRST` are not here:
they are values the host writes (R10, D14). There is no free value: the spec leaves no result open on which the
machine goes on.
-/

namespace Sys2Proof.Config

/-- `HDR_LEN` of R9. -/
@[simp] def hdrLen : Nat := 7

/-- `CRC_LEN` of R9. -/
@[simp] def crcLen : Nat := 4

/-- `MIN_FRAME` of R9. -/
@[simp] def minFrame : Nat := 11

/-- `FRAME_MAX` of R9. -/
@[simp] def frameMax : Nat := 256

/-- `LEN_PRESENT` of R9. -/
@[simp] def lenPresent : Nat := 8

/-- `LEN_ABSENT` of R9. -/
@[simp] def lenAbsent : Nat := 3

/-- `SHAPES` of R9: the only legal values of `msg_len`. -/
@[simp] def shapes : List Nat := [3, 8]

/-- `CRC_POLY` of R9, reversed representation. -/
def crcPoly : Word := 0xEDB88320#32

/-- `CRC_INITVAL` of R9. -/
def crcInitVal : Word := 0xFFFFFFFF#32

/-- `CRC_XOROUT` of R9. -/
def crcXorOut : Word := 0xFFFFFFFF#32

/-- `PLBUF_SIZE` of R9. -/
@[simp] def plbufSize : Nat := 255

/-- `TXBUF_SIZE` of R9. -/
@[simp] def txbufSize : Nat := 256

/-- `RXBUF_SIZE` of R9. -/
@[simp] def rxbufSize : Nat := 256

end Sys2Proof.Config
end

