-- ==== Sys2Proof/Machine/Crc32.lean ====
section
/-!
DEFINITION. Unit U1 as a function: `crc_step`, `crc_acc`, `crc32` (R111, R112) and the table-driven form (R114).
-/

namespace Sys2Proof.Machine

/-- One of the eight shift steps of R111: the bit that leaves at the right decides whether the polynomial is added. -/
def crcShift (a : Word) : Word :=
  if a.getLsbD 0 then (a >>> 1) ^^^ Config.crcPoly else a >>> 1

/-- `n` shift steps (R111). -/
def crcShifts : Nat → Word → Word
  | 0, a => a
  | n + 1, a => crcShifts n (crcShift a)

/-- `crc_step` of R111: the byte enters at the low 8 bits, then eight shift steps. -/
def crcStep (acc : Word) (b : Byte) : Word := crcShifts 8 (acc ^^^ b.setWidth 32)

/-- The accumulator after `s`, started from `init` (R112, R115 b). -/
def crcAccFrom (init : Word) (s : List Byte) : Word := s.foldl crcStep init

/-- `crc_acc` of R112. -/
def crcAcc (s : List Byte) : Word := crcAccFrom Config.crcInitVal s

/-- `crc32` of R112: the accumulator with all 32 bits inverted. -/
def crc32 (s : List Byte) : Word := crcAcc s ^^^ Config.crcXorOut

/-- The table entry `T[i]` of R114. -/
def crcTableEntry (i : Byte) : Word := crcShifts 8 (i.setWidth 32)

/-- The table-driven byte step of R114; equal to `crcStep`. -/
def crcStepByTable (acc : Word) (b : Byte) : Word :=
  (acc >>> 8) ^^^ crcTableEntry ((acc ^^^ b.setWidth 32).extractLsb' 0 8)

/-- `L(e)` of R115 c: the accumulator after `e` when the initial value and the final complement are zero. -/
def crcLinear (e : List Byte) : Word := crcAccFrom 0#32 e

end Sys2Proof.Machine
end

