-- ==== Sys2Proof/Syntax.lean ====
section
/-!
DEFINITION. What can be put to the block: the instructions of the opcode table (R92, R87), the register and buffer
names (R22, R42 to R44), and the host's transactions (R100, R102, R76).
-/

namespace Sys2Proof

/-- The six opaque address bytes of a present-shape payload, in the order the radio driver reports them (R66, R134).
There are exactly six. -/
structure Address where
  b0 : Byte
  b1 : Byte
  b2 : Byte
  b3 : Byte
  b4 : Byte
  b5 : Byte
  deriving DecidableEq, Repr

/-- One constructor per row of the opcode table: the eight commands of R92 and the two frame layouts of R87. -/
inductive Instr where
  /-- `NOP` (R190). -/
  | nop
  /-- `CRC_INIT` (R116). -/
  | crcInit
  /-- `CRC_BYTE imm8` (R117); the only command with an operand in its word (R93). -/
  | crcByte (imm8 : Byte)
  /-- `PL_PRESENT` (R136). -/
  | plPresent
  /-- `PL_ABSENT` (R137). -/
  | plAbsent
  /-- `PL_BUILD` (R138). -/
  | plBuild
  /-- `ENCODE` (R152). -/
  | encode
  /-- `DECODE` (R168). -/
  | decode
  /-- `FRAME_ABSENT` (R87): the 14-byte frame, put to the block as a received frame (R76). -/
  | frameAbsent (nodeId : Half) (msgCnt : Word) (sent0 sent1 sent2 : Byte) (crc : Word)
  /-- `FRAME_PRESENT` (R87): the 19-byte frame, put to the block as a received frame (R76). -/
  | framePresent (nodeId : Half) (msgCnt : Word) (rssi chan : Byte) (addr : Address) (crc : Word)
  deriving DecidableEq, Repr

/-- The 35 registers of R22, in register-number order. -/
inductive Reg where
  | cmd | fault | crcAcc | crcOut
  | measFound | rssi | chan | bssid0 | bssid1 | bssid2 | bssid3 | bssid4 | bssid5
  | measNa | nodeId | msgCnt | plLen | txLen | encStatus | rxLen | decStatus
  | recNodeId | recMsgCnt | recShape | recRssi | recChan
  | recBssid0 | recBssid1 | recBssid2 | recBssid3 | recBssid4 | recBssid5
  | recSent0 | recSent1 | recSent2
  deriving DecidableEq, Repr

/-- The three byte buffers (R42, R43, R44). -/
inductive Buf where
  | plbuf | txbuf | rxbuf
  deriving DecidableEq, Repr

/-- One line of a host script. The first five are the transactions of R100; `rdtx` and `tx2rx` are the
pseudo-transactions of R102 whose expansion depends on what the block holds; `receive` is the hand-off of a received
byte sequence of R76. The other pseudo-transactions of R102 are lists of these (`Script.loadRx` and its neighbours).
Registers are named by number and values are natural numbers, so that the illegal transactions of R68 can be written. -/
inductive Txn where
  /-- `WR reg, v` (R192). A write of register 0 (`CMD`) presents a command word. -/
  | wr (reg value : Nat)
  /-- `RD reg` (R193). -/
  | rd (reg : Nat)
  /-- `WB buf[i], b` (R194). -/
  | wb (buf : Buf) (offset value : Nat)
  /-- `RB buf[i]` (R194). -/
  | rb (buf : Buf) (offset : Nat)
  /-- `RESET` (R230). -/
  | reset
  /-- `RDTX` (R102). -/
  | rdtx
  /-- `TX2RX` (R102). -/
  | tx2rx
  /-- The transport delivered `raw`: load it, its length, and issue `DECODE` (R76). -/
  | receive (raw : List Byte)
  deriving DecidableEq, Repr

end Sys2Proof
end

