-- ==== Sys2Proof/Machine/State.lean ====
section
/-!
DEFINITION. The state of one instance of the block (R20): 33 stored registers, three byte buffers, and for each of
them the mark of R45; beside it the host script and what it has read (R103). Reset (R231). The reasons a step stops.
-/

namespace Sys2Proof.Machine

/-- A register together with the mark of R20 and R45: `invalid` is the spec's own state of a register, stated as its
reset value by R231 and written again by `invalid(...)` in R184 and R204. It is not the want of a reset value. -/
inductive Marked (α : Type) where
  | invalid
  | defined (v : α)
  deriving DecidableEq, Repr

/-- The defined bytes of one buffer, offsets strictly rising. An offset that is not listed is invalid (R45): it reads as
no value, so no entry can equal what an unlisted offset reads as. -/
abbrev Memory := List Host.Cell

/-- A place that can be read: a register or a buffer byte. -/
inductive Loc where
  | reg (r : Reg)
  | byte (buf : Buf) (offset : Nat)
  deriving DecidableEq, Repr

/-- The machine stops with a fault: an access to an address that none of the four address spaces of R60 has. Not to be
confused with the `FAULT` register, whose two faults do not stop the block (R210). -/
inductive Fault where
  /-- Raised by `WR` and `RD` of a register number above 0x22 (R22, R68, row U2). Safe: no behaviour is claimed. -/
  | noSuchRegister (number : Nat)
  /-- Raised by `WB`, `RB` and by a command's buffer access at an offset outside the buffer (R60, R68, row U2); no command
  ever raises it. Safe: no behaviour is claimed. -/
  | noSuchOffset (buf : Buf) (offset : Nat)
  deriving DecidableEq, Repr

/-- The model gives no next state. -/
inductive Refusal where
  /-- Raised by an arm of `exec` for an instruction with no meaning yet; no arm does. Safe. -/
  | notModelled (mnemonic : String)
  /-- Raised by `RD`, `RB` and by a command that needs an invalid location as an input: the read has no defined result
  (R45), and the spec says the model stops there (R45, R210, row U1: `refuse`). Safe. -/
  | invalidRead (loc : Loc)
  /-- Raised by `WR` of a register with access R (R68, row U2). Safe. -/
  | readOnlyRegister (r : Reg)
  /-- Raised by `WB` to `TXBUF` (R68, row U2). Safe. -/
  | readOnlyBuffer (buf : Buf)
  /-- Raised by `WR` of a value that does not fit the register (R68, row U2). Safe. -/
  | overWideRegister (r : Reg) (value : Nat)
  /-- Raised by `WB` of a value above 255 (R194, row U2). Safe. -/
  | overWideByte (value : Nat)
  /-- Raised by `receive` of more than 256 bytes, which cannot be loaded (R77). Safe. -/
  | rawTooLong (length : Nat)
  deriving DecidableEq, Repr

structure State where
  /-- `FAULT` (R24): bit 0 `ILLCMD`, bit 1 `ILLLEN`. -/
  fault     : BitVec 2
  /-- `CRC_ACC` (R25). -/
  crcAcc    : Word
  /-- `MEAS_FOUND` (R27). -/
  measFound : Marked (BitVec 1)
  /-- `RSSI` (R27). -/
  rssi      : Marked Byte
  /-- `CHAN` (R27). -/
  chan      : Marked Byte
  /-- `BSSID0` (R27). -/
  bssid0    : Marked Byte
  /-- `BSSID1` (R27). -/
  bssid1    : Marked Byte
  /-- `BSSID2` (R27). -/
  bssid2    : Marked Byte
  /-- `BSSID3` (R27). -/
  bssid3    : Marked Byte
  /-- `BSSID4` (R27). -/
  bssid4    : Marked Byte
  /-- `BSSID5` (R27). -/
  bssid5    : Marked Byte
  /-- `MEAS_NA` (R28). -/
  measNa    : Marked Byte
  /-- `NODE_ID` (R29). -/
  nodeId    : Marked Half
  /-- `MSG_CNT` (R30). -/
  msgCnt    : Marked Word
  /-- `PL_LEN` (R31). -/
  plLen     : BitVec 8
  /-- `TX_LEN` (R32). -/
  txLen     : BitVec 9
  /-- `ENC_STATUS` (R33). -/
  encStatus : BitVec 3
  /-- `RX_LEN` (R34). -/
  rxLen     : BitVec 9
  /-- `DEC_STATUS` (R35). -/
  decStatus : BitVec 3
  /-- `REC_NODE_ID` (R36). -/
  recNodeId : Marked Half
  /-- `REC_MSG_CNT` (R36). -/
  recMsgCnt : Marked Word
  /-- `REC_SHAPE` (R37). -/
  recShape  : Marked (BitVec 1)
  /-- `REC_RSSI` (R38). -/
  recRssi   : Marked Byte
  /-- `REC_CHAN` (R38). -/
  recChan   : Marked Byte
  /-- `REC_BSSID0` (R38). -/
  recBssid0 : Marked Byte
  /-- `REC_BSSID1` (R38). -/
  recBssid1 : Marked Byte
  /-- `REC_BSSID2` (R38). -/
  recBssid2 : Marked Byte
  /-- `REC_BSSID3` (R38). -/
  recBssid3 : Marked Byte
  /-- `REC_BSSID4` (R38). -/
  recBssid4 : Marked Byte
  /-- `REC_BSSID5` (R38). -/
  recBssid5 : Marked Byte
  /-- `REC_SENT0` (R39). -/
  recSent0  : Marked Byte
  /-- `REC_SENT1` (R39). -/
  recSent1  : Marked Byte
  /-- `REC_SENT2` (R39). -/
  recSent2  : Marked Byte
  /-- `PLBUF` (R42). -/
  plbuf     : Memory
  /-- `TXBUF` (R43). -/
  txbuf     : Memory
  /-- `RXBUF` (R44). -/
  rxbuf     : Memory
  /-- The host's transactions still to come (R103). The model's own field, not the block's. -/
  script    : List Txn
  /-- The values the host's `RD` and `RB` transactions returned so far, oldest first (R103). The model's own field. -/
  returned  : List Nat
  deriving DecidableEq, Repr

/-- The reset state (R231, R48). -/
def State.reset : State where
  fault     := 0#2
  crcAcc    := Config.crcInitVal
  measFound := .invalid
  rssi      := .invalid
  chan      := .invalid
  bssid0    := .invalid
  bssid1    := .invalid
  bssid2    := .invalid
  bssid3    := .invalid
  bssid4    := .invalid
  bssid5    := .invalid
  measNa    := .invalid
  nodeId    := .invalid
  msgCnt    := .invalid
  plLen     := 0#8
  txLen     := 0#9
  encStatus := 0#3
  rxLen     := 0#9
  decStatus := 0#3
  recNodeId := .invalid
  recMsgCnt := .invalid
  recShape  := .invalid
  recRssi   := .invalid
  recChan   := .invalid
  recBssid0 := .invalid
  recBssid1 := .invalid
  recBssid2 := .invalid
  recBssid3 := .invalid
  recBssid4 := .invalid
  recBssid5 := .invalid
  recSent0  := .invalid
  recSent1  := .invalid
  recSent2  := .invalid
  plbuf     := []
  txbuf     := []
  rxbuf     := []
  script    := []
  returned  := []

/-- The outcome of one step of the block. -/
abbrev Result := Host.Outcome State Fault Refusal

end Sys2Proof.Machine
end

