-- ==== Sys2Proof/Machine/Flags.lean ====
section
/-!
DEFINITION. The block has no condition codes (R41). What takes their place: the status codes of R95, the six errors of
R201, and the two sticky bits of `FAULT` (R24).
-/

namespace Sys2Proof.Machine

/-- The six errors of R201, and no others. -/
inductive Err where
  | formatError | sizeError | tooShort | lengthMismatch | unknownPayloadShape | checksumFailed
  deriving DecidableEq, Repr

/-- The unit whose status register an error goes to (R201). -/
inductive UnitName where
  | encoder | decoder
  deriving DecidableEq, Repr

/-- `IDLE` (R95). -/
def statusIdle : BitVec 3 := 0#3

/-- `OK` (R95). -/
def statusOk : BitVec 3 := 1#3

/-- The error's 3-bit code (R95, R201). -/
def Err.code : Err → BitVec 3
  | .formatError => 2#3
  | .sizeError => 3#3
  | .tooShort => 4#3
  | .lengthMismatch => 5#3
  | .unknownPayloadShape => 6#3
  | .checksumFailed => 7#3

/-- The unit that raises the error (R201). -/
def Err.raisedBy : Err → UnitName
  | .formatError => .encoder
  | .sizeError => .encoder
  | .tooShort => .decoder
  | .lengthMismatch => .decoder
  | .unknownPayloadShape => .decoder
  | .checksumFailed => .decoder

/-- `x[FAULT] <- x[FAULT] or 0b01`: the sticky bit `ILLCMD` (R191). -/
def setIllCmd (s : State) : State := { s with fault := s.fault ||| 1#2 }

/-- `x[FAULT] <- x[FAULT] or 0b10`: the sticky bit `ILLLEN` (R192). -/
def setIllLen (s : State) : State := { s with fault := s.fault ||| 2#2 }

end Sys2Proof.Machine
end

