-- ==== Sys2Proof/Machine/Ops.lean ====
section
/-!
DEFINITION. The shared operations: buffers (R16, R60), the mark of R45, `raise` (R204) and reset (R231).

`raise` is all the block has of taking an exception: no state is saved, no vector is computed, no mode changes (R213),
and there is no return from one (R214).
-/

namespace Sys2Proof.Machine

/-- Go on with what the first part gives; a stop stops the whole. -/
def andThen {α β : Type} (x : Host.Outcome α Fault Refusal) (k : α → Host.Outcome β Fault Refusal) :
    Host.Outcome β Fault Refusal :=
  match x with
  | .next a => k a
  | .fault r => .fault r
  | .refused r => .refused r

/-- Read a marked location. An invalid one has no defined result, and the spec gives that read no next state: R45 says
"refuse the read", and row U1 has the treatment `refuse`. -/
def need {α : Type} (loc : Loc) : Marked α → Host.Outcome α Fault Refusal
  | .defined v => .next v
  | .invalid => .refused (.invalidRead loc)

/-- The byte at an offset; none when it is invalid (R45). -/
def Memory.read : Memory → Nat → Option Byte
  | [], _ => none
  | (k, v) :: m, a => if k = a then some v else Memory.read m a

/-- Write one byte; the offset is defined from then on (R194). -/
def Memory.write : Memory → Nat → Byte → Memory
  | [], a, b => [(a, b)]
  | (k, v) :: m, a, b =>
    if a < k then (a, b) :: (k, v) :: m
    else if a = k then (a, b) :: m
    else (k, v) :: Memory.write m a b

/-- Write consecutive bytes from an offset (R16 `MemWrite`). -/
def Memory.writeBytes : Memory → Nat → List Byte → Memory
  | m, _, [] => m
  | m, a, b :: bs => Memory.writeBytes (Memory.write m a b) (a + 1) bs

/-- `invalid(BUF + n .. )`: make every offset from `n` on invalid (R16, R45). -/
def Memory.below (m : Memory) (n : Nat) : Memory := m.filter (fun c => decide (c.1 < n))

/-- Offsets strictly rising, none below `lo`. -/
def Memory.risesFrom (lo : Nat) : Memory → Bool
  | [] => true
  | (k, _) :: m => decide (lo ≤ k) && Memory.risesFrom (k + 1) m

/-- The canonical form: offsets strictly rising. -/
def Memory.wf (m : Memory) : Bool := Memory.risesFrom 0 m

/-- Every listed offset is below `n`. -/
def Memory.within (m : Memory) (n : Nat) : Bool := m.all (fun c => decide (c.1 < n))

/-- The size of a buffer (R42, R43, R44, R9). -/
def bufSize : Buf → Nat
  | .plbuf => Config.plbufSize
  | .txbuf => Config.txbufSize
  | .rxbuf => Config.rxbufSize

/-- The contents of a buffer. -/
def State.buf (s : State) : Buf → Memory
  | .plbuf => s.plbuf
  | .txbuf => s.txbuf
  | .rxbuf => s.rxbuf

/-- Replace the contents of a buffer. -/
def State.setBuf (s : State) (b : Buf) (m : Memory) : State :=
  match b with
  | .plbuf => { s with plbuf := m }
  | .txbuf => { s with txbuf := m }
  | .rxbuf => { s with rxbuf := m }

/-- `n` consecutive bytes from an offset; an invalid byte among them gets the treatment `refuse` of row U1 (R45). -/
def readCells (b : Buf) (m : Memory) : Nat → Nat → Host.Outcome (List Byte) Fault Refusal
  | _, 0 => .next []
  | i, n + 1 =>
    match m.read i with
    | some v => andThen (readCells b m (i + 1) n) fun vs => .next (v :: vs)
    | none => .refused (.invalidRead (.byte b i))

/-- `MemRead(BUF + i, n)` (R16). -/
def memRead (b : Buf) (i n : Nat) (s : State) : Host.Outcome (List Byte) Fault Refusal :=
  if i + n ≤ bufSize b then readCells b (s.buf b) i n
  else .fault (.noSuchOffset b (max i (bufSize b)))

/-- `MemWrite(BUF + i, n, bytes)` (R16). -/
def memWrite (b : Buf) (i : Nat) (bytes : List Byte) (s : State) : Result :=
  if i + bytes.length ≤ bufSize b then .next (s.setBuf b ((s.buf b).writeBytes i bytes))
  else .fault (.noSuchOffset b (max i (bufSize b)))

/-- `invalid(BUF + n .. end)` (R16, R45). -/
def invalidateFrom (b : Buf) (n : Nat) (s : State) : State := s.setBuf b ((s.buf b).below n)

/-- All fourteen record registers become invalid (R169, R204). -/
def clearRecord (s : State) : State :=
  { s with
    recNodeId := .invalid, recMsgCnt := .invalid, recShape := .invalid, recRssi := .invalid, recChan := .invalid,
    recBssid0 := .invalid, recBssid1 := .invalid, recBssid2 := .invalid, recBssid3 := .invalid,
    recBssid4 := .invalid, recBssid5 := .invalid,
    recSent0 := .invalid, recSent1 := .invalid, recSent2 := .invalid }

/-- `raise E` (R204): the unit's status gets the error's code and the unit's outputs become invalid; nothing else
changes. -/
def raise (e : Err) (s : State) : State :=
  match e.raisedBy with
  | .encoder => invalidateFrom .txbuf 0 { s with encStatus := e.code, txLen := 0#9 }
  | .decoder => clearRecord { s with decStatus := e.code }

/-- `RESET` (R231): the block goes to the reset state. The host's script and what the host has read are the host's and
stay (R232). -/
def applyReset (s : State) : State := { State.reset with script := s.script, returned := s.returned }

/-- The host receives values (R103). -/
def noteReturned (vs : List Nat) (s : State) : State := { s with returned := s.returned ++ vs }

end Sys2Proof.Machine
end

