-- ==== Sys2Proof/Machine/Operands.lean ====
section
/-!
DEFINITION. The register file of R22: numbers, widths, access rights; reading a register (R193) and storing into one
(R192); the operands of the commands.
-/

namespace Sys2Proof.Machine

/-- The access column of R22, from the host's side. -/
inductive Access where
  /-- Host reads only. -/
  | r
  /-- Host reads and writes. -/
  | rw
  /-- A host write triggers a command. -/
  | w
  deriving DecidableEq, Repr

/-- The registers in the order of their numbers 0x00 to 0x22 (R22). -/
def regTable : List Reg :=
  [.cmd, .fault, .crcAcc, .crcOut,
   .measFound, .rssi, .chan, .bssid0, .bssid1, .bssid2, .bssid3, .bssid4, .bssid5,
   .measNa, .nodeId, .msgCnt, .plLen, .txLen, .encStatus, .rxLen, .decStatus] ++
  [.recNodeId, .recMsgCnt, .recShape, .recRssi, .recChan,
   .recBssid0, .recBssid1, .recBssid2, .recBssid3, .recBssid4, .recBssid5,
   .recSent0, .recSent1, .recSent2]

/-- The register a number names; none from 0x23 on (R22). -/
def regOfNum (n : Nat) : Option Reg := regTable[n]?

/-- The `#` column of R22. -/
def regNum : Reg → Nat
  | .cmd => 0x00 | .fault => 0x01 | .crcAcc => 0x02 | .crcOut => 0x03
  | .measFound => 0x04 | .rssi => 0x05 | .chan => 0x06
  | .bssid0 => 0x07 | .bssid1 => 0x08 | .bssid2 => 0x09 | .bssid3 => 0x0A | .bssid4 => 0x0B | .bssid5 => 0x0C
  | .measNa => 0x0D | .nodeId => 0x0E | .msgCnt => 0x0F | .plLen => 0x10 | .txLen => 0x11
  | .encStatus => 0x12 | .rxLen => 0x13 | .decStatus => 0x14
  | .recNodeId => 0x15 | .recMsgCnt => 0x16 | .recShape => 0x17 | .recRssi => 0x18 | .recChan => 0x19
  | .recBssid0 => 0x1A | .recBssid1 => 0x1B | .recBssid2 => 0x1C | .recBssid3 => 0x1D
  | .recBssid4 => 0x1E | .recBssid5 => 0x1F
  | .recSent0 => 0x20 | .recSent1 => 0x21 | .recSent2 => 0x22

/-- The `w` column of R22. -/
def regWidth : Reg → Nat
  | .cmd => 16 | .fault => 2 | .crcAcc => 32 | .crcOut => 32
  | .measFound => 1 | .rssi => 8 | .chan => 8
  | .bssid0 => 8 | .bssid1 => 8 | .bssid2 => 8 | .bssid3 => 8 | .bssid4 => 8 | .bssid5 => 8
  | .measNa => 8 | .nodeId => 16 | .msgCnt => 32 | .plLen => 8 | .txLen => 9
  | .encStatus => 3 | .rxLen => 9 | .decStatus => 3
  | .recNodeId => 16 | .recMsgCnt => 32 | .recShape => 1 | .recRssi => 8 | .recChan => 8
  | .recBssid0 => 8 | .recBssid1 => 8 | .recBssid2 => 8 | .recBssid3 => 8 | .recBssid4 => 8 | .recBssid5 => 8
  | .recSent0 => 8 | .recSent1 => 8 | .recSent2 => 8

/-- The access column of R22. -/
def regAccess : Reg → Access
  | .cmd => .w
  | .measFound | .rssi | .chan | .bssid0 | .bssid1 | .bssid2 | .bssid3 | .bssid4 | .bssid5
  | .measNa | .nodeId | .msgCnt | .plLen | .rxLen => .rw
  | .fault | .crcAcc | .crcOut | .txLen | .encStatus | .decStatus
  | .recNodeId | .recMsgCnt | .recShape | .recRssi | .recChan
  | .recBssid0 | .recBssid1 | .recBssid2 | .recBssid3 | .recBssid4 | .recBssid5
  | .recSent0 | .recSent1 | .recSent2 => .r

/-- A marked register read as an integer (R65). -/
def needNat {w : Nat} (r : Reg) (m : Marked (BitVec w)) : Host.Outcome Nat Fault Refusal :=
  andThen (need (.reg r) m) fun v => .next v.toNat

/-- `CRC_OUT`, the view of R26. -/
def crcOut (s : State) : Word := s.crcAcc ^^^ Config.crcXorOut

/-- What a read of a register returns (R193). -/
def readReg (r : Reg) (s : State) : Host.Outcome Nat Fault Refusal :=
  match r with
  | .cmd => .next 0
  | .fault => .next s.fault.toNat
  | .crcAcc => .next s.crcAcc.toNat
  | .crcOut => .next (crcOut s).toNat
  | .measFound => needNat .measFound s.measFound
  | .rssi => needNat .rssi s.rssi
  | .chan => needNat .chan s.chan
  | .bssid0 => needNat .bssid0 s.bssid0
  | .bssid1 => needNat .bssid1 s.bssid1
  | .bssid2 => needNat .bssid2 s.bssid2
  | .bssid3 => needNat .bssid3 s.bssid3
  | .bssid4 => needNat .bssid4 s.bssid4
  | .bssid5 => needNat .bssid5 s.bssid5
  | .measNa => needNat .measNa s.measNa
  | .nodeId => needNat .nodeId s.nodeId
  | .msgCnt => needNat .msgCnt s.msgCnt
  | .plLen => .next s.plLen.toNat
  | .txLen => .next s.txLen.toNat
  | .encStatus => .next s.encStatus.toNat
  | .rxLen => .next s.rxLen.toNat
  | .decStatus => .next s.decStatus.toNat
  | .recNodeId => needNat .recNodeId s.recNodeId
  | .recMsgCnt => needNat .recMsgCnt s.recMsgCnt
  | .recShape => needNat .recShape s.recShape
  | .recRssi => needNat .recRssi s.recRssi
  | .recChan => needNat .recChan s.recChan
  | .recBssid0 => needNat .recBssid0 s.recBssid0
  | .recBssid1 => needNat .recBssid1 s.recBssid1
  | .recBssid2 => needNat .recBssid2 s.recBssid2
  | .recBssid3 => needNat .recBssid3 s.recBssid3
  | .recBssid4 => needNat .recBssid4 s.recBssid4
  | .recBssid5 => needNat .recBssid5 s.recBssid5
  | .recSent0 => needNat .recSent0 s.recSent0
  | .recSent1 => needNat .recSent1 s.recSent1
  | .recSent2 => needNat .recSent2 s.recSent2

/-- `x[RX_LEN] <- v` when `v <= 256`; otherwise `RX_LEN` stays and `FAULT.ILLLEN` is set (R34, R192). -/
def storeRxLen (v : Nat) (s : State) : State :=
  if v ≤ Config.rxbufSize then { s with rxLen := BitVec.ofNat 9 v } else setIllLen s

/-- The effect of a legal host write on a stored register (R192). Only the `RW` registers are stored into this way. -/
def storeReg (r : Reg) (v : Nat) (s : State) : State :=
  match r with
  | .measFound => { s with measFound := .defined (BitVec.ofNat 1 v) }
  | .rssi => { s with rssi := .defined (BitVec.ofNat 8 v) }
  | .chan => { s with chan := .defined (BitVec.ofNat 8 v) }
  | .bssid0 => { s with bssid0 := .defined (BitVec.ofNat 8 v) }
  | .bssid1 => { s with bssid1 := .defined (BitVec.ofNat 8 v) }
  | .bssid2 => { s with bssid2 := .defined (BitVec.ofNat 8 v) }
  | .bssid3 => { s with bssid3 := .defined (BitVec.ofNat 8 v) }
  | .bssid4 => { s with bssid4 := .defined (BitVec.ofNat 8 v) }
  | .bssid5 => { s with bssid5 := .defined (BitVec.ofNat 8 v) }
  | .measNa => { s with measNa := .defined (BitVec.ofNat 8 v) }
  | .nodeId => { s with nodeId := .defined (BitVec.ofNat 16 v) }
  | .msgCnt => { s with msgCnt := .defined (BitVec.ofNat 32 v) }
  | .plLen => { s with plLen := BitVec.ofNat 8 v }
  | .rxLen => storeRxLen v s
  | .cmd | .fault | .crcAcc | .crcOut | .txLen | .encStatus | .decStatus
  | .recNodeId | .recMsgCnt | .recShape | .recRssi | .recChan
  | .recBssid0 | .recBssid1 | .recBssid2 | .recBssid3 | .recBssid4 | .recBssid5
  | .recSent0 | .recSent1 | .recSent2 => s

/-- The eight operand bytes of `PL_PRESENT`, in payload order; all must be defined (R136). -/
def presentOperands (s : State) : Host.Outcome (List Byte) Fault Refusal :=
  andThen (need (.reg .rssi) s.rssi) fun rssi =>
  andThen (need (.reg .chan) s.chan) fun chan =>
  andThen (need (.reg .bssid0) s.bssid0) fun b0 =>
  andThen (need (.reg .bssid1) s.bssid1) fun b1 =>
  andThen (need (.reg .bssid2) s.bssid2) fun b2 =>
  andThen (need (.reg .bssid3) s.bssid3) fun b3 =>
  andThen (need (.reg .bssid4) s.bssid4) fun b4 =>
  andThen (need (.reg .bssid5) s.bssid5) fun b5 =>
  .next [rssi, chan, b0, b1, b2, b3, b4, b5]

/-- The three payload bytes of `PL_ABSENT`; `MEAS_NA` must be defined (R137). -/
def absentOperands (s : State) : Host.Outcome (List Byte) Fault Refusal :=
  andThen (need (.reg .measNa) s.measNa) fun na => .next [na, na, na]

end Sys2Proof.Machine
end

