-- ==== Sys2Proof/Machine/CrcUnit.lean ====
section
/-!
DEFINITION. The commands of unit U1 (R116, R117).
-/

namespace Sys2Proof.Machine

/-- `CRC_INIT` (R116). -/
def execCrcInit (s : State) : Result := .next { s with crcAcc := Config.crcInitVal }

/-- `CRC_BYTE imm8` (R117). -/
def execCrcByte (imm8 : Byte) (s : State) : Result := .next { s with crcAcc := crcStep s.crcAcc imm8 }

end Sys2Proof.Machine
end

