-- ==== Sys2Proof/Machine/Bytes.lean ====
section
/-!
DEFINITION. Byte sequences: slices (R13), big-endian pack and unpack (R14), signed bytes (R15).
-/

namespace Sys2Proof.Machine

/-- `s[i..j)` of R13. -/
def slice (s : List Byte) (i j : Nat) : List Byte := (s.drop i).take (j - i)

/-- `be16` of R14: most significant byte first. -/
def be16 (v : Half) : List Byte := [v.extractLsb' 8 8, v.extractLsb' 0 8]

/-- `be32` of R14: most significant byte first. -/
def be32 (v : Word) : List Byte :=
  [v.extractLsb' 24 8, v.extractLsb' 16 8, v.extractLsb' 8 8, v.extractLsb' 0 8]

/-- The integer whose base-256 digits are `s`, most significant first (R14). -/
def unbe (s : List Byte) : Nat := s.foldl (fun acc b => acc * 256 + b.toNat) 0

/-- `unbe16` of R14, on a sequence of two bytes. -/
def unbe16 (s : List Byte) : Half := BitVec.ofNat 16 (unbe s)

/-- `unbe32` of R14, on a sequence of four bytes. -/
def unbe32 (s : List Byte) : Word := BitVec.ofNat 32 (unbe s)

/-- `twos8` of R15: `i mod 256`. -/
def twos8 (i : SByte) : Byte := BitVec.ofNat 8 (i.val % 256).toNat

/-- `sint8` of R15. -/
def sint8 (b : Byte) : SByte :=
  if h : b.toNat ≤ 127 then ⟨b.toNat, by omega⟩
  else ⟨(b.toNat : Int) - 256, by have := b.isLt; omega⟩

end Sys2Proof.Machine
end

