-- ==== Sys2Proof/Machine/Framer.lean ====
section
/-!
DEFINITION. Unit U2b, the frame encoder: the function `encode` (R146) and the command `ENCODE` (R152, R153).
-/

namespace Sys2Proof.Machine

/-- `body` of R146: `node_id`, `msg_cnt`, `msg_len`, payload, in wire order (R148). -/
def frameBody (nodeId : Half) (msgCnt : Word) (p : List Byte) : List Byte :=
  be16 nodeId ++ be32 msgCnt ++ [BitVec.ofNat 8 p.length] ++ p

/-- `frame` of R146: the body and its CRC-32, big-endian (R149). -/
def frameOf (nodeId : Half) (msgCnt : Word) (p : List Byte) : List Byte :=
  frameBody nodeId msgCnt p ++ be32 (crc32 (frameBody nodeId msgCnt p))

/-- `encode` of R146 with `SHAPES` and `FRAME_MAX` as parameters, as R150 allows a model to have them; the format check
comes first (R151). -/
def encodeWith (shapes : List Nat) (frameMax : Nat) (nodeId : Half) (msgCnt : Word) (p : List Byte) :
    Except Err (List Byte) :=
  if p.length ∉ shapes then .error .formatError
  else if (frameOf nodeId msgCnt p).length > frameMax then .error .sizeError
  else .ok (frameOf nodeId msgCnt p)

/-- `encode` (R146) with the constants of this hardware. -/
def encodeFrame (nodeId : Half) (msgCnt : Word) (p : List Byte) : Except Err (List Byte) :=
  encodeWith Config.shapes Config.frameMax nodeId msgCnt p

/-- The output writes of a successful `ENCODE` (R152). -/
def putFrame (frame : List Byte) (s : State) : Result :=
  andThen (memWrite .txbuf 0 frame s) fun s' =>
    .next { invalidateFrom .txbuf frame.length s' with
      txLen := BitVec.ofNat 9 frame.length, encStatus := statusOk }

/-- `ENCODE` (R152). When `PL_LEN` is no legal shape only `PL_LEN` is read. -/
def execEncode (s : State) : Result :=
  if s.plLen.toNat ∉ Config.shapes then .next (raise .formatError s)
  else
    andThen (memRead .plbuf 0 s.plLen.toNat s) fun p =>
    andThen (need (.reg .nodeId) s.nodeId) fun nodeId =>
    andThen (need (.reg .msgCnt) s.msgCnt) fun msgCnt =>
      match encodeFrame nodeId msgCnt p with
      | .error e => .next (raise e s)
      | .ok frame => putFrame frame s

end Sys2Proof.Machine
end

