-- ==== Sys2Proof/Machine/Payload.lean ====
section
/-!
DEFINITION. Unit U2a, the payload encoder: the functions (R131, R132, R135) and the commands (R136 to R138).
-/

namespace Sys2Proof.Machine

/-- The six address bytes in order (R131). -/
def addressBytes (a : Address) : List Byte := [a.b0, a.b1, a.b2, a.b3, a.b4, a.b5]

/-- `payload_present` (R131). -/
def payloadPresent (rssi : SByte) (chan : Byte) (addr : Address) : List Byte :=
  twos8 rssi :: chan :: addressBytes addr

/-- `payload_absent` (R132). -/
def payloadAbsent (na : Byte) : List Byte := [na, na, na]

/-- The outcome of a measurement attempt (R130): exactly two. -/
inductive Measurement where
  | found (rssi : SByte) (chan : Byte) (addr : Address)
  | notFound
  deriving DecidableEq, Repr

/-- `payload_of` (R135), under the configured sentinel `na`. -/
def payloadOf (na : Byte) : Measurement → List Byte
  | .found rssi chan addr => payloadPresent rssi chan addr
  | .notFound => payloadAbsent na

/-- Put a payload at the start of `PLBUF` and its length in `PL_LEN` (R136, R137). -/
def storePayload (p : List Byte) (s : State) : Result :=
  andThen (memWrite .plbuf 0 p s) fun s' => .next { s' with plLen := BitVec.ofNat 8 p.length }

/-- The body of `PL_PRESENT` (R136). -/
def buildPresent (s : State) : Result := andThen (presentOperands s) fun p => storePayload p s

/-- The body of `PL_ABSENT` (R137). -/
def buildAbsent (s : State) : Result := andThen (absentOperands s) fun p => storePayload p s

/-- `PL_PRESENT` (R136). -/
def execPlPresent (s : State) : Result := buildPresent s

/-- `PL_ABSENT` (R137). -/
def execPlAbsent (s : State) : Result := buildAbsent s

/-- `PL_BUILD` (R138): reads only the registers of the branch it takes. -/
def execPlBuild (s : State) : Result :=
  andThen (need (.reg .measFound) s.measFound) fun found =>
    if found = 1#1 then buildPresent s else buildAbsent s

end Sys2Proof.Machine
end

