-- ==== Sys2Proof/WellFormed.lean ====
section
/-!
DEFINITION. Which instructions are well formed. A command is well formed as soon as it is typed (its one operand, the
byte of `CRC_BYTE`, has every value legal, R92). A frame is well formed when its `crc32` field is the CRC-32 of the
bytes before it: the `k` bits of R87 are not free (R86).
-/

namespace Sys2Proof

open Sys2Proof.Machine

/-- The bytes of an absent-shape frame before its checksum (R80, R87). -/
def absentBody (nodeId : Half) (msgCnt : Word) (sent0 sent1 sent2 : Byte) : List Byte :=
  be16 nodeId ++ be32 msgCnt ++ [3#8, sent0, sent1, sent2]

/-- The bytes of a present-shape frame before its checksum (R80, R84, R87). -/
def presentBody (nodeId : Half) (msgCnt : Word) (rssi chan : Byte) (addr : Address) : List Byte :=
  be16 nodeId ++ be32 msgCnt ++
    [8#8, rssi, chan, addr.b0, addr.b1, addr.b2, addr.b3, addr.b4, addr.b5]

/-- The check of R86 on frames; commands have nothing to check. -/
def Instr.wellFormed : Instr → Bool
  | .nop => true
  | .crcInit => true
  | .crcByte _ => true
  | .plPresent => true
  | .plAbsent => true
  | .plBuild => true
  | .encode => true
  | .decode => true
  | .frameAbsent nodeId msgCnt sent0 sent1 sent2 crc =>
    crc == crc32 (absentBody nodeId msgCnt sent0 sent1 sent2)
  | .framePresent nodeId msgCnt rssi chan addr crc =>
    crc == crc32 (presentBody nodeId msgCnt rssi chan addr)

end Sys2Proof
end

