-- ==== Sys2Proof/Decode.lean ====
section
/-!
DEFINITION. The encodings (30_encoding.md): the decoder, total and rejecting by name, and after it the encoder.
A command arrives as one 16-bit integer, which has no byte order (R65, R91); a frame arrives as a byte sequence (R80).
The decoder checks a frame's layout only (length and `msg_len`, R87): a received byte sequence is untrusted and its
checksum is the business of `DECODE` (R77, R165).
-/

namespace Sys2Proof

open Sys2Proof.Machine

/-- The two things that are encoded (30_encoding.md): a command word, a frame. -/
inductive Code where
  | cmd (word : Half)
  | frame (bytes : List Byte)
  deriving DecidableEq, Repr

/-- Why a code is no instruction. -/
inductive Reject where
  /-- `op` is none of the eight opcodes (R94). -/
  | reservedOpcode (op : Byte)
  /-- `op` takes no immediate and `imm8` is not zero (R94). -/
  | reservedImmediate (op imm8 : Byte)
  /-- A byte sequence whose length is neither 14 nor 19 (R87). -/
  | noFrameLength (length : Nat)
  /-- A byte sequence of 14 or 19 bytes whose `msg_len` byte is not 3 or 8 respectively (R87). -/
  | wrongMsgLen (length : Nat) (msgLen : Byte)
  deriving DecidableEq, Repr

/-- `op = word[7:0]` (R91). -/
def opcodeOf (word : Half) : Byte := word.extractLsb' 0 8

/-- `imm8 = word[15:8]` (R91, R93). -/
def imm8Of (word : Half) : Byte := word.extractLsb' 8 8

/-- The commands that take no immediate, by opcode (R92). -/
def plainCommand (op : Byte) : Option Instr :=
  if op = 0x00#8 then some .nop
  else if op = 0x01#8 then some .crcInit
  else if op = 0x10#8 then some .plPresent
  else if op = 0x11#8 then some .plAbsent
  else if op = 0x12#8 then some .plBuild
  else if op = 0x20#8 then some .encode
  else if op = 0x30#8 then some .decode
  else none

/-- Decoding a command word (R91 to R94). -/
def decodeWord (word : Half) : Except Reject Instr :=
  if opcodeOf word = 0x02#8 then .ok (.crcByte (imm8Of word))
  else
    match plainCommand (opcodeOf word) with
    | some i =>
      if imm8Of word = 0#8 then .ok i
      else .error (.reservedImmediate (opcodeOf word) (imm8Of word))
    | none => .error (.reservedOpcode (opcodeOf word))

/-- Decoding a byte sequence by the two layouts of R87. -/
def decodeFrameBytes (raw : List Byte) : Except Reject Instr :=
  match raw with
  | [n1, n0, c3, c2, c1, c0, m, s0, s1, s2, k3, k2, k1, k0] =>
    if m = 3#8 then
      .ok (.frameAbsent (unbe16 [n1, n0]) (unbe32 [c3, c2, c1, c0]) s0 s1 s2 (unbe32 [k3, k2, k1, k0]))
    else .error (.wrongMsgLen 14 m)
  | [n1, n0, c3, c2, c1, c0, m, r, h, a0, a1, a2, a3, a4, a5, k3, k2, k1, k0] =>
    if m = 8#8 then
      .ok (.framePresent (unbe16 [n1, n0]) (unbe32 [c3, c2, c1, c0]) r h ⟨a0, a1, a2, a3, a4, a5⟩
        (unbe32 [k3, k2, k1, k0]))
    else .error (.wrongMsgLen 19 m)
  | other => .error (.noFrameLength other.length)

/-- The decoder. -/
def decode : Code → Except Reject Instr
  | .cmd word => decodeWord word
  | .frame bytes => decodeFrameBytes bytes

/-- `zext_16(op)` or `imm8 * 256 + op` (R93). -/
def commandWord (imm8 op : Byte) : Half := imm8 ++ op

/-- The 14 bytes of R87. -/
def absentBytes (nodeId : Half) (msgCnt : Word) (sent0 sent1 sent2 : Byte) (crc : Word) : List Byte :=
  absentBody nodeId msgCnt sent0 sent1 sent2 ++ be32 crc

/-- The 19 bytes of R87. -/
def presentBytes (nodeId : Half) (msgCnt : Word) (rssi chan : Byte) (addr : Address) (crc : Word) : List Byte :=
  presentBody nodeId msgCnt rssi chan addr ++ be32 crc

/-- The encoder: the word of a command (R92, R93, R101), the bytes of a frame (R87). -/
def encode : Instr → Code
  | .nop => .cmd (commandWord 0#8 0x00#8)
  | .crcInit => .cmd (commandWord 0#8 0x01#8)
  | .crcByte imm8 => .cmd (commandWord imm8 0x02#8)
  | .plPresent => .cmd (commandWord 0#8 0x10#8)
  | .plAbsent => .cmd (commandWord 0#8 0x11#8)
  | .plBuild => .cmd (commandWord 0#8 0x12#8)
  | .encode => .cmd (commandWord 0#8 0x20#8)
  | .decode => .cmd (commandWord 0#8 0x30#8)
  | .frameAbsent nodeId msgCnt sent0 sent1 sent2 crc => .frame (absentBytes nodeId msgCnt sent0 sent1 sent2 crc)
  | .framePresent nodeId msgCnt rssi chan addr crc => .frame (presentBytes nodeId msgCnt rssi chan addr crc)

/-- The low `n` bytes of `w`, most significant first. -/
def bytesOfNat : Nat → Nat → List Byte
  | 0, _ => []
  | n + 1, w => bytesOfNat n (w / 256) ++ [BitVec.ofNat 8 w]

/-- The instruction bits `w` as they are presented to the block: a command word is one integer; a frame's bits are
numbered as the opcode table numbers them, from the last bit of the last byte (the rows' notes), so the first byte is
the most significant (log entry 8). -/
def codeOfTableWord (nbits w : Nat) : Code :=
  if nbits ≤ 16 then .cmd (BitVec.ofNat 16 w) else .frame (bytesOfNat (nbits / 8) w)

/-- The instruction the decoder reads from bits `w`, numbered as the opcode table numbers them. -/
def decodeTableWord (nbits w : Nat) : Option Instr :=
  match decode (codeOfTableWord nbits w) with
  | .ok i => some i
  | .error _ => none

end Sys2Proof
end

