-- ==== Sys2Proof/Machine/Demux.lean ====
section
/-!
DEFINITION. Unit U4, the payload demultiplexer: the function `demux` (R180), the record (R183), and the record's payload
part in the registers (R184).
-/

namespace Sys2Proof.Machine

/-- The interpreted payload, tagged by shape (R180, R183). -/
inductive Body where
  | present (rssi : SByte) (chan : Byte) (addr : Address)
  | absent (sent0 sent1 sent2 : Byte)
  deriving DecidableEq, Repr

/-- `demux` (R180): defined for `msg_len` 8 with eight bytes and for 3 with three, and for nothing else. -/
def demux (msgLen : Nat) (p : List Byte) : Option Body :=
  match p with
  | [r, h, a0, a1, a2, a3, a4, a5] =>
    if msgLen = Config.lenPresent then some (.present (sint8 r) h ⟨a0, a1, a2, a3, a4, a5⟩) else none
  | [x, y, z] => if msgLen = Config.lenAbsent then some (.absent x y z) else none
  | _ => none

/-- The payload bytes of an interpreted payload (R187). -/
def Body.bytes : Body → List Byte
  | .present rssi chan addr => payloadPresent rssi chan addr
  | .absent x y z => [x, y, z]

/-- The record (R183): nothing but these. -/
structure Record where
  nodeId : Half
  msgCnt : Word
  body : Body
  deriving DecidableEq, Repr

/-- The record's payload part in the registers (R184): the registers of the other shape become invalid. -/
def writePayloadPart (msgLen : Nat) (p : List Byte) (s : State) : State :=
  if msgLen = Config.lenPresent then
    { s with
      recShape := .defined 1#1
      recRssi := .defined (p.getD 0 0#8), recChan := .defined (p.getD 1 0#8)
      recBssid0 := .defined (p.getD 2 0#8), recBssid1 := .defined (p.getD 3 0#8)
      recBssid2 := .defined (p.getD 4 0#8), recBssid3 := .defined (p.getD 5 0#8)
      recBssid4 := .defined (p.getD 6 0#8), recBssid5 := .defined (p.getD 7 0#8)
      recSent0 := .invalid, recSent1 := .invalid, recSent2 := .invalid }
  else
    { s with
      recShape := .defined 0#1
      recSent0 := .defined (p.getD 0 0#8), recSent1 := .defined (p.getD 1 0#8), recSent2 := .defined (p.getD 2 0#8)
      recRssi := .invalid, recChan := .invalid
      recBssid0 := .invalid, recBssid1 := .invalid, recBssid2 := .invalid
      recBssid3 := .invalid, recBssid4 := .invalid, recBssid5 := .invalid }

end Sys2Proof.Machine
end

