-- ==== Sys2Proof/Machine/Parser.lean ====
section
/-!
DEFINITION. Unit U3, the parser and validator: the functions `parse` and `decode` (R167) and the command `DECODE` (R168,
R169).
-/

namespace Sys2Proof.Machine

/-- What the parser hands on (R167 `Valid`). -/
structure Valid where
  nodeId : Half
  msgCnt : Word
  msgLen : Byte
  payload : List Byte
  deriving DecidableEq, Repr

/-- Steps 3 and 4 of R163 and R164, on a length of at least 11 and the `msg_len` byte. -/
def lengthAndShape (len : Nat) (msgLen : Byte) : Option Err :=
  if len - Config.minFrame ≠ msgLen.toNat then some .lengthMismatch
  else if msgLen.toNat ∉ Config.shapes then some .unknownPayloadShape
  else none

/-- Step 5 of R165 and the result of R167, once steps 1 to 4 have passed. -/
def checkSum (raw : List Byte) (msgLen : Byte) : Except Err Valid :=
  let n := msgLen.toNat
  if crc32 (slice raw 0 (7 + n)) ≠ unbe32 (slice raw (7 + n) (11 + n)) then .error .checksumFailed
  else
    .ok { nodeId := unbe16 (slice raw 0 2), msgCnt := unbe32 (slice raw 2 6), msgLen := msgLen,
          payload := slice raw 7 (7 + n) }

/-- `parse` of R167: steps 1 to 5 in that order (R166). -/
def parse (raw : List Byte) : Except Err Valid :=
  if raw.length < Config.minFrame then .error .tooShort
  else
    let msgLen := raw.getD 6 0#8
    match lengthAndShape raw.length msgLen with
    | some e => .error e
    | none => checkSum raw msgLen

/-- `decode` of R167: steps 1 to 7. `demux` is defined on every `Valid` value (R180), so its `none` is never met; the
error written there is the one step 4 gives a payload of no known shape. -/
def decodeRaw (raw : List Byte) : Except Err Record :=
  match parse raw with
  | .error e => .error e
  | .ok v =>
    match demux v.msgLen.toNat v.payload with
    | some body => .ok { nodeId := v.nodeId, msgCnt := v.msgCnt, body := body }
    | none => .error .unknownPayloadShape

/-- The output writes of `DECODE` on an accepted frame (R168, R184). -/
def putRecord (v : Valid) (s : State) : State :=
  writePayloadPart v.msgLen.toNat v.payload
    { s with recNodeId := .defined v.nodeId, recMsgCnt := .defined v.msgCnt, decStatus := statusOk }

/-- `DECODE` (R168). It reads only as far as the steps that run: nothing when `RX_LEN < 11`; the header when steps 2 to
4 run; all `RX_LEN` bytes when step 5 is reached. -/
def execDecode (s : State) : Result :=
  if s.rxLen.toNat < Config.minFrame then .next (raise .tooShort s)
  else
    andThen (memRead .rxbuf 0 Config.hdrLen s) fun header =>
      match lengthAndShape s.rxLen.toNat (header.getD 6 0#8) with
      | some e => .next (raise e s)
      | none =>
        andThen (memRead .rxbuf 0 s.rxLen.toNat s) fun raw =>
          match parse raw with
          | .error e => .next (raise e s)
          | .ok v => .next (putRecord v s)

end Sys2Proof.Machine
end

