-- ==== Sys2Proof/Machine/Receive.lean ====
section
/-!
DEFINITION. The hand-off of a received byte sequence (R76, R77, R241) and, as its two special cases, the frame layouts
of R87 put to the block (log entry 3).
-/

namespace Sys2Proof.Machine

/-- `LOADRX raw` (R102): the bytes to `RXBUF`, then their count to `RX_LEN`. -/
def loadRx (raw : List Byte) (s : State) : Result :=
  andThen (memWrite .rxbuf 0 raw s) fun s' => .next (storeRxLen raw.length s')

/-- The transport delivered `raw` (R76): load it, then `DECODE`. More than 256 bytes cannot be loaded (R77). -/
def receiveRaw (raw : List Byte) (s : State) : Result :=
  if raw.length ≤ Config.rxbufSize then andThen (loadRx raw s) execDecode
  else .refused (.rawTooLong raw.length)

/-- `FRAME_ABSENT` (R87): the 14-byte frame arrives (R76). -/
def execFrameAbsent (nodeId : Half) (msgCnt : Word) (sent0 sent1 sent2 : Byte) (crc : Word) (s : State) : Result :=
  receiveRaw (absentBytes nodeId msgCnt sent0 sent1 sent2 crc) s

/-- `FRAME_PRESENT` (R87): the 19-byte frame arrives (R76). -/
def execFramePresent (nodeId : Half) (msgCnt : Word) (rssi chan : Byte) (addr : Address) (crc : Word) (s : State) :
    Result :=
  receiveRaw (presentBytes nodeId msgCnt rssi chan addr crc) s

end Sys2Proof.Machine
end

