-- ==== Sys2Proof/Machine/System.lean ====
section
/-!
DEFINITION. `NOP` (R190) and what a reserved command word does (R191).
-/

namespace Sys2Proof.Machine

/-- `NOP` (R190): reads nothing, writes nothing. -/
def execNop (s : State) : Result := .next s

/-- A reserved command word (R191): ignored, and `FAULT.ILLCMD` is set. -/
def reservedWord (s : State) : Result := .next (setIllCmd s)

end Sys2Proof.Machine
end

