-- ==== Sys2Proof/Machine/Dispatch.lean ====
section
/-!
DEFINITION. One arm per instruction.
-/

namespace Sys2Proof.Machine

def exec (i : Instr) (s : State) : Host.Outcome State Fault Refusal :=
  match i with
  | .nop => Sys2Proof.Machine.execNop s
  | .crcInit => Sys2Proof.Machine.execCrcInit s
  | .crcByte imm8 => Sys2Proof.Machine.execCrcByte imm8 s
  | .plPresent => Sys2Proof.Machine.execPlPresent s
  | .plAbsent => Sys2Proof.Machine.execPlAbsent s
  | .plBuild => Sys2Proof.Machine.execPlBuild s
  | .encode => Sys2Proof.Machine.execEncode s
  | .decode => Sys2Proof.Machine.execDecode s
  | .frameAbsent nodeId msgCnt sent0 sent1 sent2 crc => Sys2Proof.Machine.execFrameAbsent nodeId msgCnt sent0 sent1 sent2 crc s
  | .framePresent nodeId msgCnt rssi chan addr crc => Sys2Proof.Machine.execFramePresent nodeId msgCnt rssi chan addr crc s

end Sys2Proof.Machine
end

