-- ==== Sys2Proof/Machine/Transactions.lean ====
section
/-!
DEFINITION. The host's transactions (R192 to R194, R230), the pseudo-transactions of R102, and what one line of a host
script does.
-/

namespace Sys2Proof.Machine

/-- A host write of a word to `CMD` (R23): the command it encodes runs, or it is reserved (R191). -/
def writeCommand (word : Half) (s : State) : Result :=
  match decode (.cmd word) with
  | .ok i => exec i s
  | .error _ => reservedWord s

/-- `WR reg, v` (R192). -/
def hostWrite (number v : Nat) (s : State) : Result :=
  match regOfNum number with
  | none => .fault (.noSuchRegister number)
  | some r =>
    match regAccess r with
    | .r => .refused (.readOnlyRegister r)
    | .w =>
      if v < 2 ^ regWidth r then writeCommand (BitVec.ofNat 16 v) s else .refused (.overWideRegister r v)
    | .rw => if v < 2 ^ regWidth r then .next (storeReg r v s) else .refused (.overWideRegister r v)

/-- `RD reg` (R193): the host receives the value; nothing in the block changes (R71). -/
def hostRead (number : Nat) (s : State) : Result :=
  match regOfNum number with
  | none => .fault (.noSuchRegister number)
  | some r => andThen (readReg r s) fun v => .next (noteReturned [v] s)

/-- `WB buf[i], b` (R194). -/
def hostWriteByte (b : Buf) (offset v : Nat) (s : State) : Result :=
  if b = .txbuf then .refused (.readOnlyBuffer b)
  else if v < 256 then memWrite b offset [BitVec.ofNat 8 v] s
  else .refused (.overWideByte v)

/-- `RB buf[i]` (R194). -/
def hostReadByte (b : Buf) (offset : Nat) (s : State) : Result :=
  andThen (memRead b offset 1 s) fun vs => .next (noteReturned (vs.map BitVec.toNat) s)

/-- `RB TXBUF[i]` for `n` offsets from `i` on (R102). -/
def readTxFrom : Nat → Nat → State → Result
  | _, 0, s => .next s
  | i, n + 1, s => andThen (hostReadByte .txbuf i s) (readTxFrom (i + 1) n)

/-- `RDTX` (R102): `RD TX_LEN`, then `RB TXBUF[0]` to `RB TXBUF[TX_LEN - 1]`. -/
def readTx (s : State) : Result :=
  andThen (hostRead (regNum .txLen) s) (readTxFrom 0 s.txLen.toNat)

/-- `RB TXBUF[i] -> b`; `WB RXBUF[i], b` for `n` offsets from `i` on (R102). -/
def copyTxFrom : Nat → Nat → State → Result
  | _, 0, s => .next s
  | i, n + 1, s =>
    andThen (memRead .txbuf i 1 s) fun vs =>
    andThen (memWrite .rxbuf i vs (noteReturned (vs.map BitVec.toNat) s)) (copyTxFrom (i + 1) n)

/-- `TX2RX` (R102): a perfect channel from this instance's encoder to its own decoder. -/
def copyTxToRx (s : State) : Result :=
  andThen (copyTxFrom 0 s.txLen.toNat s) (hostWrite (regNum .rxLen) s.txLen.toNat)

/-- The transport's line: a byte sequence that has the layout of a frame is that frame; any other is handed over all
the same (R77). -/
def receiveLine (raw : List Byte) (s : State) : Result :=
  match decode (.frame raw) with
  | .ok i => exec i s
  | .error _ => receiveRaw raw s

/-- What one line of a host script does. -/
def runTxn (t : Txn) (s : State) : Result :=
  match t with
  | .wr number v => hostWrite number v s
  | .rd number => hostRead number s
  | .wb b offset v => hostWriteByte b offset v s
  | .rb b offset => hostReadByte b offset s
  | .reset => .next (applyReset s)
  | .rdtx => readTx s
  | .tx2rx => copyTxToRx s
  | .receive raw => receiveLine raw s

/-- The word of a command, as the integer the host writes (R101); a frame has none. -/
def commandOf (i : Instr) : Nat :=
  match encode i with
  | .cmd word => word.toNat
  | .frame _ => 0

/-- `CMD <mnemonic>` = `WR CMD, <word>` (R101). -/
def scriptCmd (i : Instr) : Txn := .wr (regNum .cmd) (commandOf i)

/-- `WR <reg>, <value>` by register name (R100). -/
def scriptWrite (r : Reg) (v : Nat) : Txn := .wr (regNum r) v

/-- `RD <reg>` by register name (R100). -/
def scriptRead (r : Reg) : Txn := .rd (regNum r)

/-- `WBS buf[i], b0 b1 ... bk` (R102). -/
def scriptBytes (b : Buf) : Nat → List Byte → List Txn
  | _, [] => []
  | i, v :: vs => .wb b i v.toNat :: scriptBytes b (i + 1) vs

/-- `LOADRX b0 ... bk` (R102). -/
def scriptLoadRx (raw : List Byte) : List Txn := scriptBytes .rxbuf 0 raw ++ [scriptWrite .rxLen raw.length]

/-- `LOADPL b0 ... bk` (R102). -/
def scriptLoadPl (p : List Byte) : List Txn := scriptBytes .plbuf 0 p ++ [scriptWrite .plLen p.length]

/-- `CRC_BYTES b0 ... bk` (R102). -/
def scriptCrcBytes (s : List Byte) : List Txn := s.map fun b => scriptCmd (.crcByte b)

/-- `WRBSSID b0 b1 b2 b3 b4 b5` (R102). -/
def scriptBssid (a : Address) : List Txn :=
  [scriptWrite .bssid0 a.b0.toNat, scriptWrite .bssid1 a.b1.toNat, scriptWrite .bssid2 a.b2.toNat,
   scriptWrite .bssid3 a.b3.toNat, scriptWrite .bssid4 a.b4.toNat, scriptWrite .bssid5 a.b5.toNat]

/-- Run a list of transactions one after another (R73). -/
def runScript : List Txn → State → Result
  | [], s => .next s
  | t :: ts, s => andThen (runTxn t s) (runScript ts)

/-- The transaction that presents a code to the block. -/
def present : Code → Txn
  | .cmd word => .wr (regNum .cmd) word.toNat
  | .frame bytes => .receive bytes

/-- The next transaction of the script, which is then gone from it. With no transaction left nothing happens (R198, R211;
log entry 5). -/
def takeTxn (s : State) : Result :=
  match s.script with
  | [] => .next s
  | t :: ts => runTxn t { s with script := ts }

/-- `s` with a transaction put before its script. -/
def State.putTxn (s : State) (t : Txn) : State := { s with script := t :: s.script }

end Sys2Proof.Machine
end

