-- ==== Sys2Proof/Machine/Step.lean ====
section
/-!
DEFINITION. One step: the host's next transaction (R21, R73).
-/

namespace Sys2Proof.Machine

/-- One step of the machine. -/
def step (s : State) : Host.Outcome State Fault Refusal := takeTxn s

/-- The block does not fetch (R40): the host presents each instruction. This puts the transaction that presents the
instruction of bits `w` before the script, so that the next step runs it (log entry 5). -/
def State.withFetchWord (s : State) (nbits w : Nat) : State := s.putTxn (present (codeOfTableWord nbits w))

end Sys2Proof.Machine
end

