-- ==== Sys2Proof/Safety.lean ====
section
/-!
DEFINITION. The terms claims are stated in: what a run that does not stop is, what the record registers hold, what a
legal frame is (R90), and the invariant of the machine (R221, R32 to R35, R43).
-/

namespace Sys2Proof.Machine

/-- The state a step answers, if it answers one. -/
def nextOf {σ φ ρ : Type} : Host.Outcome σ φ ρ → Option σ
  | .next s => some s
  | .fault _ => none
  | .refused _ => none

/-- The refusal a step answers, if it answers one. -/
def refusalOf {σ φ ρ : Type} : Host.Outcome σ φ ρ → Option ρ
  | .next _ => none
  | .fault _ => none
  | .refused r => some r

/-- The fault a step answers, if it answers one. -/
def faultOf {σ φ ρ : Type} : Host.Outcome σ φ ρ → Option φ
  | .next _ => none
  | .fault r => some r
  | .refused _ => none

/-- `k` transactions of the host script run without a stop: a safe run. -/
def RunsSafely (k : Nat) (s : State) : Prop := ∃ t, Host.Core.run Sys2Proof.core k s = .next t

/-- A buffer holds a byte sequence from an offset on. -/
def HoldsBytes (m : Memory) (i : Nat) (bytes : List Byte) : Prop :=
  ∀ k, k < bytes.length → m.read (i + k) = bytes[k]?

/-- A buffer's defined bytes are exactly a byte sequence at offset 0: every further offset is invalid. -/
def HoldsExactly (m : Memory) (bytes : List Byte) : Prop := ∀ a, m.read a = bytes[a]?

/-- A legal frame (R90). -/
def LegalFrame (f : List Byte) : Prop :=
  (f.length = 14 ∨ f.length = 19) ∧ (f.getD 6 0#8).toNat = f.length - 11 ∧
    slice f (f.length - 4) f.length = be32 (crc32 (slice f 0 (f.length - 4)))

/-- No record register is defined (R169, R221 a). -/
def NoRecord (s : State) : Prop :=
  s.recNodeId = .invalid ∧ s.recMsgCnt = .invalid ∧ s.recShape = .invalid ∧
  s.recRssi = .invalid ∧ s.recChan = .invalid ∧
  s.recBssid0 = .invalid ∧ s.recBssid1 = .invalid ∧ s.recBssid2 = .invalid ∧
  s.recBssid3 = .invalid ∧ s.recBssid4 = .invalid ∧ s.recBssid5 = .invalid ∧
  s.recSent0 = .invalid ∧ s.recSent1 = .invalid ∧ s.recSent2 = .invalid

/-- The payload part of the record registers holds an interpreted payload, the other shape's registers being invalid
(R37 to R39, R184). -/
def HoldsBody (s : State) : Body → Prop
  | .present rssi chan addr =>
    s.recShape = .defined 1#1 ∧ s.recRssi = .defined (twos8 rssi) ∧ s.recChan = .defined chan ∧
    s.recBssid0 = .defined addr.b0 ∧ s.recBssid1 = .defined addr.b1 ∧ s.recBssid2 = .defined addr.b2 ∧
    s.recBssid3 = .defined addr.b3 ∧ s.recBssid4 = .defined addr.b4 ∧ s.recBssid5 = .defined addr.b5 ∧
    s.recSent0 = .invalid ∧ s.recSent1 = .invalid ∧ s.recSent2 = .invalid
  | .absent x y z =>
    s.recShape = .defined 0#1 ∧ s.recSent0 = .defined x ∧ s.recSent1 = .defined y ∧ s.recSent2 = .defined z ∧
    s.recRssi = .invalid ∧ s.recChan = .invalid ∧
    s.recBssid0 = .invalid ∧ s.recBssid1 = .invalid ∧ s.recBssid2 = .invalid ∧
    s.recBssid3 = .invalid ∧ s.recBssid4 = .invalid ∧ s.recBssid5 = .invalid

/-- The record registers hold a record (R36 to R39, R183). -/
def HoldsRecord (s : State) (r : Record) : Prop :=
  s.recNodeId = .defined r.nodeId ∧ s.recMsgCnt = .defined r.msgCnt ∧ HoldsBody s r.body

/-- From `s` to `t` nothing changed but `DEC_STATUS` and the record registers (the writes of `DECODE`, R168). -/
def OnlyDecoderChanged (s t : State) : Prop :=
  t = { s with
    decStatus := t.decStatus, recNodeId := t.recNodeId, recMsgCnt := t.recMsgCnt, recShape := t.recShape,
    recRssi := t.recRssi, recChan := t.recChan,
    recBssid0 := t.recBssid0, recBssid1 := t.recBssid1, recBssid2 := t.recBssid2,
    recBssid3 := t.recBssid3, recBssid4 := t.recBssid4, recBssid5 := t.recBssid5,
    recSent0 := t.recSent0, recSent1 := t.recSent1, recSent2 := t.recSent2 }

/-- From `s` to `t` nothing changed but `TXBUF`, `TX_LEN` and `ENC_STATUS` (the writes of `ENCODE`, R152). -/
def OnlyEncoderChanged (s t : State) : Prop :=
  t = { s with txbuf := t.txbuf, txLen := t.txLen, encStatus := t.encStatus }

/-- From `s` to `t` nothing changed but `PLBUF` and `PL_LEN` (the writes of the payload commands, R136 to R138). -/
def OnlyPayloadChanged (s t : State) : Prop := t = { s with plbuf := t.plbuf, plLen := t.plLen }

/-- The buffers are in canonical form inside their sizes (R42 to R44), and `RX_LEN` is legal (R34). -/
structure BuffersInv (s : State) : Prop where
  plbufForm : s.plbuf.wf = true
  plbufSize : s.plbuf.within Config.plbufSize = true
  txbufForm : s.txbuf.wf = true
  txbufSize : s.txbuf.within Config.txbufSize = true
  rxbufForm : s.rxbuf.wf = true
  rxbufSize : s.rxbuf.within Config.rxbufSize = true
  rxLenLegal : s.rxLen.toNat ≤ Config.rxbufSize

/-- The encoder's outputs: a legal frame and its length exactly when `ENC_STATUS` is `OK`; otherwise `IDLE` or
`FormatError`, no frame and `TX_LEN` 0 (R32, R33, R43, R154 e, R221 c). -/
def EncoderInv (s : State) : Prop :=
  (s.encStatus = statusOk ∧ ∃ f, LegalFrame f ∧ s.txLen.toNat = f.length ∧ HoldsExactly s.txbuf f) ∨
  ((s.encStatus = statusIdle ∨ s.encStatus = Err.formatError.code) ∧ s.txLen = 0#9 ∧ HoldsExactly s.txbuf [])

/-- The decoder's outputs: a record exactly when `DEC_STATUS` is `OK`; otherwise `IDLE` or one of the four decoder errors
and no record register defined (R35, R221 a). -/
def DecoderInv (s : State) : Prop :=
  (s.decStatus = statusOk ∧ ∃ r, HoldsRecord s r) ∨
  ((s.decStatus = statusIdle ∨ ∃ e : Err, e.raisedBy = .decoder ∧ s.decStatus = e.code) ∧ NoRecord s)

/-- The invariant of the machine. -/
structure Inv (s : State) : Prop where
  buffers : BuffersInv s
  encoder : EncoderInv s
  decoder : DecoderInv s

end Sys2Proof.Machine
end

