-- ==== Sys2Proof/Certificates/Slice0/Obligations.lean ====
section
/-!
DEFINITION. The statements. `runTxn`, `runScript` and `step` are the machine's; a rule number in a docstring is the rule
of the spec the statement formalises; "log entry n" is notes/assumptions/n.md.
-/

open Sys2Proof Sys2Proof.Machine

/-! ### Words used by the statements -/

/-- `e` of `n` zero bytes but for bit `k` of byte `i` (R115 d). -/
def Sys2Proof.Machine.oneBit (n i k : Nat) : List Byte := (List.replicate n 0#8).set i (1#8 <<< k)

/-- Bytewise `xor` of two sequences of equal length (R115 c). -/
def Sys2Proof.Machine.xorBytes (a e : List Byte) : List Byte := List.zipWith (· ^^^ ·) a e

/-- A byte sequence with bit `k` of byte `i` flipped (R172). -/
def Sys2Proof.Machine.flipBit (f : List Byte) (i k : Nat) : List Byte := f.set i (f.getD i 0#8 ^^^ (1#8 <<< k))

/-- The eight opcodes of R92. -/
def Sys2Proof.Machine.opcodes : List Byte := [0x00#8, 0x01#8, 0x02#8, 0x10#8, 0x11#8, 0x12#8, 0x20#8, 0x30#8]

/-- A reserved command word (R94): its `op` is no opcode, or it is one other than 0x02 and `imm8` is not zero. -/
def Sys2Proof.Machine.ReservedWord (w : Half) : Prop :=
  w.extractLsb' 0 8 ∉ opcodes ∨ (w.extractLsb' 0 8 ≠ 0x02#8 ∧ w.extractLsb' 8 8 ≠ 0#8)

/-- The byte a transaction feeds to the CRC generator: the `imm8` of a `CRC_BYTE` word (R93). -/
def Sys2Proof.Machine.fedByte : Txn → Option Byte
  | .wr 0 v => if v < 65536 ∧ v % 256 = 2 then some (BitVec.ofNat 8 (v / 256)) else none
  | _ => none

/-- The eight operands of `PL_PRESENT` hold a payload (R136). -/
def Sys2Proof.Machine.PresentOperandsAre (s : State) (rssi chan : Byte) (a : Address) : Prop :=
  s.rssi = .defined rssi ∧ s.chan = .defined chan ∧
  s.bssid0 = .defined a.b0 ∧ s.bssid1 = .defined a.b1 ∧ s.bssid2 = .defined a.b2 ∧
  s.bssid3 = .defined a.b3 ∧ s.bssid4 = .defined a.b4 ∧ s.bssid5 = .defined a.b5

/-- One of the eight operands of `PL_PRESENT` is invalid (R45, R136). -/
def Sys2Proof.Machine.PresentOperandMissing (s : State) : Prop :=
  s.rssi = .invalid ∨ s.chan = .invalid ∨
  s.bssid0 = .invalid ∨ s.bssid1 = .invalid ∨ s.bssid2 = .invalid ∨
  s.bssid3 = .invalid ∨ s.bssid4 = .invalid ∨ s.bssid5 = .invalid

/-- All eight operands of `PL_PRESENT` are invalid (R231). -/
def Sys2Proof.Machine.PresentOperandsAllInvalid (s : State) : Prop :=
  s.rssi = .invalid ∧ s.chan = .invalid ∧
  s.bssid0 = .invalid ∧ s.bssid1 = .invalid ∧ s.bssid2 = .invalid ∧
  s.bssid3 = .invalid ∧ s.bssid4 = .invalid ∧ s.bssid5 = .invalid

/-- Register number `n` is the register `r`, and a read of it returns `v` and changes nothing in the block (R22, R193). -/
def Sys2Proof.Machine.ReadsAs (n : Nat) (r : Reg) (s : State) (v : Nat) : Prop :=
  regNum r = n ∧ readReg r s = .next v ∧ runTxn (.rd n) s = .next { s with returned := s.returned ++ [v] }

/-- A read of a register that has a mark: its field's value when that is defined, refused when it is invalid (R193, R45).
-/
def Sys2Proof.Machine.ReadsField {w : Nat} (n : Nat) (r : Reg) (s : State) (field : Marked (BitVec w)) : Prop :=
  (∀ v, field = .defined v → ReadsAs n r s v.toNat) ∧
  (field = .invalid → readReg r s = .refused (.invalidRead (.reg r)) ∧
    runTxn (.rd n) s = .refused (.invalidRead (.reg r)))

/-- The values of R231 in the block's registers and buffers. -/
def Sys2Proof.Machine.ResetValues (t : State) : Prop :=
  t.fault = 0#2 ∧ t.crcAcc = 0xFFFFFFFF#32 ∧ t.plLen = 0#8 ∧ t.txLen = 0#9 ∧ t.encStatus = 0#3 ∧ t.rxLen = 0#9 ∧
  t.decStatus = 0#3 ∧ t.measFound = .invalid ∧ PresentOperandsAllInvalid t ∧ t.measNa = .invalid ∧
  t.nodeId = .invalid ∧ t.msgCnt = .invalid ∧ NoRecord t ∧
  HoldsExactly t.plbuf [] ∧ HoldsExactly t.txbuf [] ∧ HoldsExactly t.rxbuf [] ∧
  readReg .cmd t = .next 0 ∧ readReg .crcOut t = .next 0

/-- After `PL_PRESENT` (R136): the eight bytes at offsets 0 to 7, every other byte of `PLBUF` as it was, `PL_LEN` 8, and
nothing else changed. -/
def Sys2Proof.Machine.PresentBuilt (s t : State) (rssi chan : Byte) (a : Address) : Prop :=
  HoldsBytes t.plbuf 0 [rssi, chan, a.b0, a.b1, a.b2, a.b3, a.b4, a.b5] ∧
  (∀ i, 8 ≤ i → t.plbuf.read i = s.plbuf.read i) ∧ t.plLen = 8#8 ∧ OnlyPayloadChanged s t

/-- After `PL_ABSENT` (R137): the sentinel at offsets 0 to 2, every other byte of `PLBUF` as it was, `PL_LEN` 3, and
nothing else changed. -/
def Sys2Proof.Machine.AbsentBuilt (s t : State) (na : Byte) : Prop :=
  HoldsBytes t.plbuf 0 [na, na, na] ∧
  (∀ i, 3 ≤ i → t.plbuf.read i = s.plbuf.read i) ∧ t.plLen = 3#8 ∧ OnlyPayloadChanged s t

/-- What `DECODE` leaves for a result of `decode` (R168, R169, R184): the status and the record registers. -/
def Sys2Proof.Machine.DecodedAs (t : State) : Except Err Record → Prop
  | .ok r => t.decStatus = 1#3 ∧ HoldsRecord t r
  | .error e => t.decStatus = e.code ∧ NoRecord t

/-- Each of the fourteen record registers holds in `t` what it holds in `s`, invalid or defined (R36 to R39). -/
def Sys2Proof.Machine.SameRecord (s t : State) : Prop :=
  t.recNodeId = s.recNodeId ∧ t.recMsgCnt = s.recMsgCnt ∧ t.recShape = s.recShape ∧
  t.recRssi = s.recRssi ∧ t.recChan = s.recChan ∧
  t.recBssid0 = s.recBssid0 ∧ t.recBssid1 = s.recBssid1 ∧ t.recBssid2 = s.recBssid2 ∧
  t.recBssid3 = s.recBssid3 ∧ t.recBssid4 = s.recBssid4 ∧ t.recBssid5 = s.recBssid5 ∧
  t.recSent0 = s.recSent0 ∧ t.recSent1 = s.recSent1 ∧ t.recSent2 = s.recSent2

/-- After a received byte sequence has been loaded and decoded (R76): `RXBUF` starts with it and is otherwise as it was,
`RX_LEN` is its length, and beyond these only `DEC_STATUS` and the record registers changed. -/
def Sys2Proof.Machine.Received (s t : State) (raw : List Byte) : Prop :=
  HoldsBytes t.rxbuf 0 raw ∧ (∀ i, raw.length ≤ i → t.rxbuf.read i = s.rxbuf.read i) ∧
  t.rxLen.toNat = raw.length ∧
  OnlyDecoderChanged { s with rxbuf := t.rxbuf, rxLen := t.rxLen } t

/-! ### Steps and scripts -/

/-- A host write of a command word runs the command the word encodes, on the state whose script has moved on (R23,
R73). -/
def Obligations.StepRunsDecodedCommand : Prop :=
  ∀ (s : State) (w : Half) (i : Instr) (rest : List Txn),
    s.script = .wr 0 w.toNat :: rest → decode (.cmd w) = .ok i → step s = exec i { s with script := rest }

/-- A received frame is run as the frame instruction its bytes decode to, on the state whose script has moved on (log
entry 3). -/
def Obligations.StepRunsDecodedFrame : Prop :=
  ∀ (s : State) (raw : List Byte) (i : Instr) (rest : List Txn),
    s.script = .receive raw :: rest → decode (.frame raw) = .ok i → step s = exec i { s with script := rest }

/-- The instruction placed by `withFetchWord` is what the next step runs, on the state it was placed in (log entry 5). -/
def Obligations.PlacedInstructionRunsNext : Prop :=
  ∀ (s : State) (nbits w : Nat) (i : Instr),
    decodeTableWord nbits w = some i → step (s.withFetchWord nbits w) = exec i s

/-- Steps run a script's transactions in the order of the script, one a step, each on what the one before left (R73,
R103). -/
def Obligations.StepsRunScriptInOrder : Prop :=
  ∀ (ts rest : List Txn) (s t : State), runScript ts { s with script := rest } = .next t →
    Host.Core.run Sys2Proof.core ts.length { s with script := ts ++ rest } = .next t ∧ t.script = rest

/-- With no transaction left a step changes nothing (the model's choice, log entry 5). -/
def Obligations.NoTransactionNoChange : Prop :=
  ∀ s : State, s.script = [] → step s = .next s

/-! ### Encodings -/

/-- Some command words written out from R92 and R101, and the worked frame of R88. -/
def Obligations.KnownCodesDecode : Prop :=
  decode (.cmd 0x0000#16) = .ok .nop ∧ decode (.cmd 0x0001#16) = .ok .crcInit ∧
  decode (.cmd 0x3102#16) = .ok (.crcByte 0x31#8) ∧ decode (.cmd 0x0010#16) = .ok .plPresent ∧
  decode (.cmd 0x0011#16) = .ok .plAbsent ∧ decode (.cmd 0x0012#16) = .ok .plBuild ∧
  decode (.cmd 0x0020#16) = .ok .encode ∧ decode (.cmd 0x0030#16) = .ok .decode ∧
  decode (.frame [0x00#8, 0x07#8, 0x00#8, 0x00#8, 0x00#8, 0x2A#8, 0x08#8, 0xC1#8, 0x06#8, 0xAA#8, 0xBB#8, 0xCC#8,
    0xDD#8, 0xEE#8, 0xFF#8, 0x0F#8, 0xC0#8, 0x27#8, 0x0A#8]) =
    .ok (.framePresent 7#16 42#32 0xC1#8 0x06#8 ⟨0xAA#8, 0xBB#8, 0xCC#8, 0xDD#8, 0xEE#8, 0xFF#8⟩ 0x0FC0270A#32)

/-- A word encodes a command if and only if `(w and mask) = match` in the command's row of R92, and `CRC_BYTE`'s operand
is `word[15:8]` (R93). -/
def Obligations.WordEncodesCommandByMaskAndMatch : Prop :=
  ∀ (w : Half) (i : Instr), decode (.cmd w) = .ok i ↔
    (w &&& 0xFFFF#16 = 0x0000#16 ∧ i = .nop) ∨ (w &&& 0xFFFF#16 = 0x0001#16 ∧ i = .crcInit) ∨
    (w &&& 0x00FF#16 = 0x0002#16 ∧ i = .crcByte (w.extractLsb' 8 8)) ∨
    (w &&& 0xFFFF#16 = 0x0010#16 ∧ i = .plPresent) ∨ (w &&& 0xFFFF#16 = 0x0011#16 ∧ i = .plAbsent) ∨
    (w &&& 0xFFFF#16 = 0x0012#16 ∧ i = .plBuild) ∨ (w &&& 0xFFFF#16 = 0x0020#16 ∧ i = .encode) ∨
    (w &&& 0xFFFF#16 = 0x0030#16 ∧ i = .decode)

/-- Decoding what was encoded gives the instruction back, for every instruction with every operand at every value. -/
def Obligations.DecodeOfEncode : Prop := ∀ i : Instr, decode (encode i) = .ok i

/-- Encoding what was decoded gives the code back: no bit of a code is dropped or read twice. -/
def Obligations.EncodeOfDecode : Prop := ∀ (c : Code) (i : Instr), decode c = .ok i → encode i = c

/-- The frame instructions that are well formed are exactly the legal frames (R86, R87, R90). -/
def Obligations.WellFormedFramesAreLegal : Prop :=
  (∀ (f : List Byte) (i : Instr), decode (.frame f) = .ok i → (i.wellFormed = true ↔ LegalFrame f)) ∧
  (∀ f : List Byte, LegalFrame f → ∃ i, decode (.frame f) = .ok i)

/-- `be16`, `be32` put the most significant byte first, `unbe16`, `unbe32` read them so, and they undo each other (R14).
-/
def Obligations.BigEndianPackAndUnpack : Prop :=
  (∀ v : Half, be16 v = [BitVec.ofNat 8 (v.toNat / 256), BitVec.ofNat 8 v.toNat]) ∧
  (∀ v : Word, be32 v = [BitVec.ofNat 8 (v.toNat / 2 ^ 24), BitVec.ofNat 8 (v.toNat / 2 ^ 16),
    BitVec.ofNat 8 (v.toNat / 2 ^ 8), BitVec.ofNat 8 v.toNat]) ∧
  (∀ a b : Byte, (unbe16 [a, b]).toNat = a.toNat * 256 + b.toNat) ∧
  (∀ a b c d : Byte, (unbe32 [a, b, c, d]).toNat =
    a.toNat * 2 ^ 24 + b.toNat * 2 ^ 16 + c.toNat * 2 ^ 8 + d.toNat) ∧
  (∀ v : Half, unbe16 (be16 v) = v) ∧ (∀ v : Word, unbe32 (be32 v) = v)

/-- `twos8` and `sint8` as R15 gives them, each undoing the other. -/
def Obligations.SignedByteTransforms : Prop :=
  (∀ i : SByte, (0 ≤ i.val → ((twos8 i).toNat : Int) = i.val) ∧ (i.val < 0 → ((twos8 i).toNat : Int) = i.val + 256) ∧
    sint8 (twos8 i) = i) ∧
  (∀ b : Byte, (b.toNat ≤ 127 → (sint8 b).val = b.toNat) ∧ (128 ≤ b.toNat → (sint8 b).val = (b.toNat : Int) - 256) ∧
    twos8 (sint8 b) = b)

/-! ### The CRC-32 generator -/

/-- The reference values of R113. -/
def Obligations.CrcReferenceValues : Prop :=
  crc32 [] = 0x00000000#32 ∧ crc32 [0x00#8] = 0xD202EF8D#32 ∧ crc32 [0xFF#8] = 0xFF000000#32 ∧
  crc32 [0x61#8] = 0xE8B7BE43#32 ∧ crc32 [0#8, 0#8, 0#8, 0#8] = 0x2144DF1C#32 ∧
  crc32 [0xFF#8, 0xFF#8, 0xFF#8, 0xFF#8] = 0xFFFFFFFF#32 ∧
  crc32 [0x31#8, 0x32#8, 0x33#8, 0x34#8, 0x35#8, 0x36#8, 0x37#8, 0x38#8, 0x39#8] = 0xCBF43926#32 ∧
  crc32 [0x00#8] ≠ crc32 []

/-- The table-driven byte step equals the bitwise one, with the spot values of R114. -/
def Obligations.CrcTableFormIsTheByteStep : Prop :=
  (∀ (acc : Word) (b : Byte), crcStep acc b =
    (acc >>> 8) ^^^ crcTableEntry ((acc ^^^ b.setWidth 32).extractLsb' 0 8)) ∧
  (∀ i : Byte, crcTableEntry i = crcStep 0#32 i) ∧
  crcTableEntry 0#8 = 0x00000000#32 ∧ crcTableEntry 1#8 = 0x77073096#32 ∧ crcTableEntry 2#8 = 0xEE0E612C#32 ∧
  crcTableEntry 128#8 = 0xEDB88320#32 ∧ crcTableEntry 255#8 = 0x2D02EF8D#32

/-- The checksum is incremental, and affine over GF(2): changing the covered bytes by `e` changes it by `L(e)`, which is
linear (R115 b, c). -/
def Obligations.CrcIsIncrementalAndAffine : Prop :=
  (∀ s t : List Byte, crcAcc (s ++ t) = crcAccFrom (crcAcc s) t) ∧
  (∀ a e : List Byte, a.length = e.length → crc32 (xorBytes a e) = crc32 a ^^^ crcLinear e) ∧
  (∀ e f : List Byte, e.length = f.length → crcLinear (xorBytes e f) = crcLinear e ^^^ crcLinear f)

/-- A single flipped bit in up to 256 covered bytes always changes the checksum (R115 d). -/
def Obligations.CrcCatchesEverySingleBit : Prop :=
  ∀ n i k : Nat, n ≤ 256 → i < n → k < 8 → crcLinear (oneBit n i k) ≠ 0#32

/-- Two flipped bits in the covered bytes of a legal frame always change the checksum (R115 e). -/
def Obligations.CrcCatchesEveryDoubleBit : Prop :=
  ∀ n i k j l : Nat, (n = 10 ∨ n = 15) → i < n → k < 8 → j < n → l < 8 → (i, k) ≠ (j, l) →
    crcLinear (xorBytes (oneBit n i k) (oneBit n j l)) ≠ 0#32

/-- `CRC_INIT` loads the initial value and changes nothing else; twice is once; after reset it changes nothing; after it
`CRC_OUT` reads 0; its word is 0x0001 (R116). -/
def Obligations.CrcInitLoadsInitialValue : Prop :=
  decode (.cmd 0x0001#16) = .ok .crcInit ∧
  (∀ s : State, exec .crcInit s = .next { s with crcAcc := 0xFFFFFFFF#32 } ∧
    andThen (exec .crcInit s) (exec .crcInit) = exec .crcInit s ∧
    andThen (exec .crcInit s) (readReg .crcOut) = .next 0) ∧
  exec .crcInit State.reset = .next State.reset

/-- `CRC_BYTE` absorbs its immediate and changes nothing else, for every word `imm8 * 256 + 2` and every accumulator, with
the values of R117. -/
def Obligations.CrcByteAbsorbsImmediate : Prop :=
  (∀ b : Byte, decode (.cmd (BitVec.ofNat 16 (b.toNat * 256 + 2))) = .ok (.crcByte b)) ∧
  (∀ (b : Byte) (s : State), exec (.crcByte b) s = .next { s with crcAcc := crcStep s.crcAcc b }) ∧
  crcStep 0xFFFFFFFF#32 0x00#8 = 0x2DFD1072#32 ∧ crcStep 0xFFFFFFFF#32 0x61#8 = 0x174841BC#32 ∧
  (∀ s : State, s.crcAcc = 0x174841BC#32 → readReg .crcOut s = .next 0xE8B7BE43)

/-- The streaming commands compute `crc32`: after `CRC_INIT` or `RESET`, and whatever transactions follow that are not
`CRC_INIT` or `RESET`, the accumulator is that of the bytes fed by the `CRC_BYTE`s among them and `CRC_OUT` reads their
CRC-32; and feeding a sequence runs to the end (R119). -/
def Obligations.StreamingComputesCrc32 : Prop :=
  (∀ (ts : List Txn) (s t : State) (first : Txn), first = scriptCmd .crcInit ∨ first = .reset →
    (∀ x ∈ ts, x ≠ .reset ∧ x ≠ scriptCmd .crcInit) → runScript (first :: ts) s = .next t →
    t.crcAcc = crcAcc (ts.filterMap fedByte) ∧ readReg .crcOut t = .next (crc32 (ts.filterMap fedByte)).toNat) ∧
  (∀ (bytes : List Byte) (s : State),
    (scriptCrcBytes bytes).filterMap fedByte = bytes ∧
    runScript (scriptCmd .crcInit :: scriptCrcBytes bytes) s = .next { s with crcAcc := crcAcc bytes })

/-- Only `CRC_INIT`, `CRC_BYTE` and reset change the accumulator (R25, R120). -/
def Obligations.OnlyCrcCommandsChangeAccumulator : Prop :=
  ∀ (s t : State) (h : Txn) (rest : List Txn), s.script = h :: rest → step s = .next t → t.crcAcc ≠ s.crcAcc →
    h = .reset ∨ h = scriptCmd .crcInit ∨ ∃ b, h = scriptCmd (.crcByte b)

/-! ### The payload encoder -/

/-- `NOP` changes nothing, in every state; its word is 0x0000 (R190). -/
def Obligations.NopChangesNothing : Prop :=
  decode (.cmd 0x0000#16) = .ok .nop ∧ ∀ s : State, exec .nop s = .next s

/-- `PL_PRESENT` with its eight operands defined builds the present-shape payload, `payload_present` of the signed RSSI,
and changes nothing else; running it twice gives the same result (R136). -/
def Obligations.PlPresentBuildsPayload : Prop :=
  decode (.cmd 0x0010#16) = .ok .plPresent ∧
  ∀ (s : State) (rssi chan : Byte) (a : Address), PresentOperandsAre s rssi chan a →
    (∃ t, exec .plPresent s = .next t ∧ PresentBuilt s t rssi chan a ∧
      ∃ t', exec .plPresent t = .next t' ∧ PresentBuilt s t' rssi chan a) ∧
    payloadPresent (sint8 rssi) chan a = [rssi, chan, a.b0, a.b1, a.b2, a.b3, a.b4, a.b5]

/-- `PL_ABSENT` with `MEAS_NA` defined builds the absent-shape payload, `payload_absent`, and changes nothing else (R137).
-/
def Obligations.PlAbsentBuildsPayload : Prop :=
  decode (.cmd 0x0011#16) = .ok .plAbsent ∧
  ∀ (s : State) (na : Byte), s.measNa = .defined na →
    (∃ t, exec .plAbsent s = .next t ∧ AbsentBuilt s t na) ∧ payloadAbsent na = [na, na, na]

/-- `PL_BUILD` does `PL_PRESENT` when `MEAS_FOUND` is 1 and `PL_ABSENT` when it is 0, reading only the registers of the
branch it takes (R138). -/
def Obligations.PlBuildSelectsByMeasFound : Prop :=
  decode (.cmd 0x0012#16) = .ok .plBuild ∧
  (∀ (s : State) (rssi chan : Byte) (a : Address), s.measFound = .defined 1#1 → PresentOperandsAre s rssi chan a →
    ∃ t, exec .plBuild s = .next t ∧ PresentBuilt s t rssi chan a) ∧
  (∀ (s : State) (na : Byte), s.measFound = .defined 0#1 → s.measNa = .defined na →
    ∃ t, exec .plBuild s = .next t ∧ AbsentBuilt s t na) ∧
  (∀ s : State, (s.measFound = .defined 1#1 → exec .plBuild s = exec .plPresent s) ∧
    (s.measFound = .defined 0#1 → exec .plBuild s = exec .plAbsent s))

/-- The payload commands are refused exactly when an operand they read is invalid (R45; row U1 of
93_implementation_defined.md). -/
def Obligations.PayloadCommandsNeedTheirOperands : Prop :=
  ∀ s : State,
    ((∃ loc, exec .plPresent s = .refused (.invalidRead loc)) ↔ PresentOperandMissing s) ∧
    ((∃ loc, exec .plAbsent s = .refused (.invalidRead loc)) ↔ s.measNa = .invalid) ∧
    ((∃ loc, exec .plBuild s = .refused (.invalidRead loc)) ↔
      s.measFound = .invalid ∨ (s.measFound = .defined 1#1 ∧ PresentOperandMissing s) ∨
      (s.measFound = .defined 0#1 ∧ s.measNa = .invalid))

/-! ### The frame encoder -/

/-- `ENCODE` with a payload of 3 or 8 defined bytes and its registers defined leaves exactly the frame of R80 in `TXBUF`,
its length in `TX_LEN`, `OK` in `ENC_STATUS`, and changes nothing else (R152). -/
def Obligations.EncodeBuildsFrame : Prop :=
  ∀ (s : State) (nodeId : Half) (msgCnt : Word) (p : List Byte),
    (p.length = 3 ∨ p.length = 8) → s.plLen.toNat = p.length → HoldsBytes s.plbuf 0 p →
    s.nodeId = .defined nodeId → s.msgCnt = .defined msgCnt →
    ∃ t, exec .encode s = .next t ∧
      HoldsExactly t.txbuf
        (be16 nodeId ++ be32 msgCnt ++ [BitVec.ofNat 8 p.length] ++ p ++
          be32 (crc32 (be16 nodeId ++ be32 msgCnt ++ [BitVec.ofNat 8 p.length] ++ p))) ∧
      t.txLen.toNat = 11 + p.length ∧ t.encStatus = 1#3 ∧ OnlyEncoderChanged s t

/-- `ENCODE` with `PL_LEN` neither 3 nor 8 raises `FormatError`, whatever else is invalid; whenever `ENCODE` ends with a
status other than `OK`, it is code 2 or 3, `TX_LEN` is 0, all of `TXBUF` is invalid and nothing else changed (R153, R202).
-/
def Obligations.EncodeRefusesOtherLengths : Prop :=
  (∀ s : State, s.plLen ≠ 3#8 → s.plLen ≠ 8#8 →
    ∃ t, exec .encode s = .next t ∧ t.encStatus = 2#3 ∧ t.txLen = 0#9 ∧ HoldsExactly t.txbuf [] ∧
      OnlyEncoderChanged s t) ∧
  (∀ s t : State, exec .encode s = .next t → t.encStatus ≠ 1#3 →
    (t.encStatus = 2#3 ∨ t.encStatus = 3#3) ∧ t.txLen = 0#9 ∧ HoldsExactly t.txbuf [] ∧ OnlyEncoderChanged s t) ∧
  (∀ (nodeId : Half) (msgCnt : Word) (p : List Byte), p.length ≠ 3 → p.length ≠ 8 →
    encodeFrame nodeId msgCnt p = .error .formatError)

/-- `ENCODE` is refused exactly when `PL_LEN` is a legal shape and one of its payload bytes, `NODE_ID` or `MSG_CNT` is
invalid (R152, R45; row U1). -/
def Obligations.EncodeNeedsItsOperands : Prop :=
  ∀ s : State, (∃ loc, exec .encode s = .refused (.invalidRead loc)) ↔
    (s.plLen = 3#8 ∨ s.plLen = 8#8) ∧
    ((∃ k, k < s.plLen.toNat ∧ s.plbuf.read k = none) ∨ s.nodeId = .invalid ∨ s.msgCnt = .invalid)

/-- `SizeError` cannot occur with the constants of this hardware; with `SHAPES` and `FRAME_MAX` as parameters it is
reachable exactly when some `n` in `SHAPES` has `11 + n > FRAME_MAX`; the format check comes first (R150, R151). -/
def Obligations.SizeErrorReachableOnlyByParameters : Prop :=
  (∀ (nodeId : Half) (msgCnt : Word) (p : List Byte), encodeFrame nodeId msgCnt p ≠ .error .sizeError) ∧
  (∀ (shapes : List Nat) (frameMax : Nat),
    (∃ (nodeId : Half) (msgCnt : Word) (p : List Byte), encodeWith shapes frameMax nodeId msgCnt p = .error .sizeError) ↔
      ∃ n ∈ shapes, 11 + n > frameMax) ∧
  (∀ (shapes : List Nat) (frameMax : Nat) (nodeId : Half) (msgCnt : Word) (p : List Byte), p.length ∉ shapes →
    encodeWith shapes frameMax nodeId msgCnt p = .error .formatError) ∧
  (∀ s t : State, exec .encode s = .next t → t.encStatus ≠ Err.sizeError.code)

/-- `encode` succeeds exactly on payloads of length 3 or 8, puts each field at its offset, and is injective on its
successes (R154 b, c, d). -/
def Obligations.EncodeFunctionLaws : Prop :=
  (∀ (n : Half) (c : Word) (p : List Byte), (∃ f, encodeFrame n c p = .ok f) ↔ p.length = 3 ∨ p.length = 8) ∧
  (∀ (n : Half) (c : Word) (p f : List Byte), encodeFrame n c p = .ok f →
    f.length = 11 + p.length ∧ (f.getD 6 0#8).toNat = p.length ∧ slice f 0 2 = be16 n ∧ slice f 2 6 = be32 c ∧
    slice f 7 (7 + p.length) = p) ∧
  (∀ (n m : Half) (c d : Word) (p q f : List Byte),
    encodeFrame n c p = .ok f → encodeFrame m d q = .ok f → n = m ∧ c = d ∧ p = q)

/-- `ENCODE` gives the same outcome in two states that agree on `NODE_ID`, `MSG_CNT`, `PL_LEN` and `PLBUF[0 .. PL_LEN)`,
whatever else they hold (R46, R72, R152). -/
def Obligations.EncodeDependsOnItsInputsOnly : Prop :=
  ∀ s t s' : State, s.nodeId = t.nodeId → s.msgCnt = t.msgCnt → s.plLen = t.plLen →
    (∀ k, k < s.plLen.toNat → s.plbuf.read k = t.plbuf.read k) → exec .encode s = .next s' →
    ∃ t', exec .encode t = .next t' ∧ t'.encStatus = s'.encStatus ∧ t'.txLen = s'.txLen ∧
      ∀ k, t'.txbuf.read k = s'.txbuf.read k

/-! ### The parser, the validator and the demultiplexer -/

/-- The outcome of `decode` by length and `msg_len` byte: the table of R170. -/
def Obligations.DecodeOutcomeByLength : Prop :=
  ∀ raw : List Byte,
    (raw.length ≤ 10 → decodeRaw raw = .error .tooShort) ∧
    (11 ≤ raw.length → raw.length - 11 ≠ (raw.getD 6 0#8).toNat → decodeRaw raw = .error .lengthMismatch) ∧
    (11 ≤ raw.length → raw.length ≠ 14 → raw.length ≠ 19 → raw.length - 11 = (raw.getD 6 0#8).toNat →
      decodeRaw raw = .error .unknownPayloadShape) ∧
    (267 ≤ raw.length → decodeRaw raw = .error .lengthMismatch) ∧
    (raw.length = 14 ∨ raw.length = 19 → raw.length - 11 = (raw.getD 6 0#8).toNat →
      (crc32 (slice raw 0 (raw.length - 4)) ≠ unbe32 (slice raw (raw.length - 4) raw.length) →
        decodeRaw raw = .error .checksumFailed) ∧
      (crc32 (slice raw 0 (raw.length - 4)) = unbe32 (slice raw (raw.length - 4) raw.length) →
        ∃ r, decodeRaw raw = .ok r ∧ ((∃ x y z, r.body = .absent x y z) ↔ raw.length = 14) ∧
          ((∃ rssi h a, r.body = .present rssi h a) ↔ raw.length = 19)))

/-- The legal frames are exactly the accepted byte sequences and exactly the outputs of `encode`; every other sequence is
rejected with a decoder error (R90). -/
def Obligations.LegalFramesAreTheAcceptedOnes : Prop :=
  (∀ f : List Byte, LegalFrame f ↔ ∃ r, decodeRaw f = .ok r) ∧
  (∀ f : List Byte, LegalFrame f ↔ ∃ (n : Half) (c : Word) (p : List Byte), encodeFrame n c p = .ok f) ∧
  (∀ f : List Byte, ¬ LegalFrame f → ∃ e : Err, e.raisedBy = .decoder ∧ decodeRaw f = .error e)

/-- Round trip on the function layer (R171): parsing an encoded frame gives the fields and the payload back, and decoding
it gives the record from which the payload is recovered byte for byte. -/
def Obligations.DecodeOfEncodedFrame : Prop :=
  ∀ (n : Half) (c : Word) (p : List Byte), (p.length = 3 ∨ p.length = 8) →
    ∃ f body, encodeFrame n c p = .ok f ∧
      parse f = .ok { nodeId := n, msgCnt := c, msgLen := BitVec.ofNat 8 p.length, payload := p } ∧
      demux p.length p = some body ∧ body.bytes = p ∧
      decodeRaw f = .ok { nodeId := n, msgCnt := c, body := body }

/-- What one flipped bit does to a legal frame (R172): in byte 6 it gives `LengthMismatch`, in any other byte
`ChecksumFailed`; it is never accepted. -/
def Obligations.OneFlippedBitIsRejected : Prop :=
  ∀ (f : List Byte) (i k : Nat), LegalFrame f → i < f.length → k < 8 →
    (i = 6 → decodeRaw (flipBit f i k) = .error .lengthMismatch) ∧
    (i ≠ 6 → decodeRaw (flipBit f i k) = .error .checksumFailed)

/-- `demux` undoes the payload encoder and is defined on just the two shapes (R180, R186, R187). -/
def Obligations.DemuxUndoesPayloadEncoder : Prop :=
  (∀ (rssi : SByte) (chan : Byte) (a : Address), demux 8 (payloadPresent rssi chan a) = some (.present rssi chan a)) ∧
  (∀ na : Byte, demux 3 (payloadAbsent na) = some (.absent na na na)) ∧
  (∀ x y z : Byte, demux 3 [x, y, z] = some (.absent x y z)) ∧
  (∀ (m : Nat) (p : List Byte), (∃ body, demux m p = some body) ↔ m = p.length ∧ (m = 8 ∨ m = 3)) ∧
  (∀ (m : Nat) (p : List Byte) (body : Body), demux m p = some body → body.bytes = p)

/-- `DECODE` with `RXBUF[0 .. RX_LEN)` defined completes, leaves in `DEC_STATUS` and the record registers what `decode`
gives for those bytes, and changes nothing else (R168); whenever it ends with a status other than `OK`, that is 4, 5, 6 or
7, no record register is defined and nothing else changed (R169). -/
def Obligations.DecodeCommandIsDecodeFunction : Prop :=
  (∀ (s : State) (raw : List Byte), s.rxLen.toNat = raw.length → HoldsBytes s.rxbuf 0 raw →
    ∃ t, exec .decode s = .next t ∧ DecodedAs t (decodeRaw raw) ∧ OnlyDecoderChanged s t) ∧
  (∀ s t : State, exec .decode s = .next t → t.decStatus ≠ 1#3 →
    (t.decStatus = 4#3 ∨ t.decStatus = 5#3 ∨ t.decStatus = 6#3 ∨ t.decStatus = 7#3) ∧ NoRecord t ∧
      OnlyDecoderChanged s t)

/-- `DECODE` reads just as far as the steps that run (R168): the first three errors are reported though later bytes are
invalid (R205, R206, R207), and it is refused exactly when a byte that a step needs is invalid: a header byte when `RX_LEN`
is 11 or more, any byte below `RX_LEN` when steps 3 and 4 pass (R45; row U1). -/
def Obligations.DecodeReadsOnlyWhatItsStepsNeed : Prop :=
  ∀ s : State,
    (s.rxLen.toNat < 11 → ∃ t, exec .decode s = .next t ∧ DecodedAs t (.error .tooShort) ∧ OnlyDecoderChanged s t) ∧
    (∀ header : List Byte, 11 ≤ s.rxLen.toNat → header.length = 7 → HoldsBytes s.rxbuf 0 header →
      (s.rxLen.toNat - 11 ≠ (header.getD 6 0#8).toNat →
        ∃ t, exec .decode s = .next t ∧ DecodedAs t (.error .lengthMismatch) ∧ OnlyDecoderChanged s t) ∧
      (s.rxLen.toNat - 11 = (header.getD 6 0#8).toNat → s.rxLen.toNat ≠ 14 → s.rxLen.toNat ≠ 19 →
        ∃ t, exec .decode s = .next t ∧ DecodedAs t (.error .unknownPayloadShape) ∧ OnlyDecoderChanged s t)) ∧
    ((∃ loc, exec .decode s = .refused (.invalidRead loc)) ↔
      11 ≤ s.rxLen.toNat ∧
        ((∃ k, k < 7 ∧ s.rxbuf.read k = none) ∨
          ∃ m : Byte, s.rxbuf.read 6 = some m ∧ s.rxLen.toNat - 11 = m.toNat ∧ (m.toNat = 3 ∨ m.toNat = 8) ∧
            ∃ k, k < s.rxLen.toNat ∧ s.rxbuf.read k = none))

/-- `DECODE` gives the same outcome in two states that agree on `RX_LEN` and `RXBUF[0 .. RX_LEN)`, whatever else they hold
(R46, R72, R173). -/
def Obligations.DecodeDependsOnItsInputsOnly : Prop :=
  ∀ s t s' : State, s.rxLen = t.rxLen → (∀ k, k < s.rxLen.toNat → s.rxbuf.read k = t.rxbuf.read k) →
    exec .decode s = .next s' →
    ∃ t', exec .decode t = .next t' ∧ t'.decStatus = s'.decStatus ∧ SameRecord s' t'

/-! ### Received frames -/

/-- A received absent-shape frame is loaded and decoded: accepted when its checksum field is right, `ChecksumFailed` when
it is not (the model's choice of what the frame row does, log entry 3; R76, R165, R184). -/
def Obligations.AbsentFrameArrives : Prop :=
  ∀ (s : State) (n : Half) (c : Word) (x y z : Byte) (k : Word),
    ∃ t, exec (.frameAbsent n c x y z k) s = .next t ∧ Received s t (absentBytes n c x y z k) ∧
      ((Instr.frameAbsent n c x y z k).wellFormed = true →
        DecodedAs t (.ok { nodeId := n, msgCnt := c, body := .absent x y z })) ∧
      ((Instr.frameAbsent n c x y z k).wellFormed = false → DecodedAs t (.error .checksumFailed))

/-- A received present-shape frame is loaded and decoded: accepted when its checksum field is right, `ChecksumFailed`
when it is not (the model's choice of what the frame row does, log entry 3; R76, R165, R184). -/
def Obligations.PresentFrameArrives : Prop :=
  ∀ (s : State) (n : Half) (c : Word) (r h : Byte) (a : Address) (k : Word),
    ∃ t, exec (.framePresent n c r h a k) s = .next t ∧ Received s t (presentBytes n c r h a k) ∧
      ((Instr.framePresent n c r h a k).wellFormed = true →
        DecodedAs t (.ok { nodeId := n, msgCnt := c, body := .present (sint8 r) h a })) ∧
      ((Instr.framePresent n c r h a k).wellFormed = false → DecodedAs t (.error .checksumFailed))

/-- Handing over a received byte sequence is `LOADRX` of it followed by `CMD DECODE`, for every sequence of at most 256
bytes, frame or not; a longer one is refused (R76, R77, R102; log entry 3). -/
def Obligations.ReceiveIsLoadThenDecode : Prop :=
  ∀ (raw : List Byte) (s : State),
    (raw.length ≤ 256 →
      runTxn (.receive raw) s = runScript (scriptLoadRx raw ++ [scriptCmd .decode]) s ∧
      ∃ t, runTxn (.receive raw) s = .next t ∧ Received s t raw ∧ DecodedAs t (decodeRaw raw)) ∧
    (256 < raw.length → runTxn (.receive raw) s = .refused (.rawTooLong raw.length))

/-- Round trip through one instance (R171, register layer): `ENCODE`, `TX2RX`, `DECODE` gives the record of the registers
and payload encoded. -/
def Obligations.LoopBackRecoversThePacket : Prop :=
  ∀ (s : State) (n : Half) (c : Word) (p : List Byte),
    (p.length = 3 ∨ p.length = 8) → s.plLen.toNat = p.length → HoldsBytes s.plbuf 0 p →
    s.nodeId = .defined n → s.msgCnt = .defined c →
    ∃ t body, runScript [scriptCmd .encode, .tx2rx, scriptCmd .decode] s = .next t ∧
      demux p.length p = some body ∧ body.bytes = p ∧
      DecodedAs t (.ok { nodeId := n, msgCnt := c, body := body })

/-- A frame one instance has encoded is accepted by any other instance, in whatever state, and gives it the sender's
fields (R171, R219). -/
def Obligations.OtherInstanceAcceptsEncodedFrame : Prop :=
  ∀ (s s' g : State) (f : List Byte), exec .encode s = .next s' → s'.encStatus = 1#3 → HoldsExactly s'.txbuf f →
    ∃ g' r, runTxn (.receive f) g = .next g' ∧ DecodedAs g' (.ok r) ∧ s.nodeId = .defined r.nodeId ∧
      s.msgCnt = .defined r.msgCnt ∧ HoldsBytes s.plbuf 0 r.body.bytes ∧ s.plLen.toNat = r.body.bytes.length

/-! ### Host transactions -/

/-- The reset state has the values of R231, and reset gives them from every state (R231). -/
def Obligations.ResetGivesResetState : Prop :=
  ResetValues State.reset ∧ ∀ s : State, ∃ t, runTxn .reset s = .next t ∧ ResetValues t

/-- A reserved command word runs no command: `FAULT.ILLCMD` is set and nothing else changes; the bit stays until reset
(R191, R94). -/
def Obligations.ReservedWordSetsIllCmdOnly : Prop :=
  (∀ (s : State) (w : Half), ReservedWord w →
    runTxn (.wr 0 w.toNat) s = .next { s with fault := s.fault ||| 1#2 }) ∧
  (∀ (s t : State) (h : Txn) (rest : List Txn), s.script = h :: rest → h ≠ .reset → step s = .next t →
    s.fault.getLsbD 0 = true → t.fault.getLsbD 0 = true) ∧
  ReservedWord 0x00FF#16 ∧ ReservedWord 0x0120#16

/-- The words that decode to no instruction are exactly the reserved ones (R94). -/
def Obligations.ReservedWordsAreTheUndecodable : Prop :=
  ∀ w : Half, (∃ e, decode (.cmd w) = .error e) ↔ ReservedWord w

/-- `WR RX_LEN`: 0 to 256 is stored; 257 to 511 leaves `RX_LEN` and sets `FAULT.ILLLEN`; nothing else changes; more does
not fit and is refused (R34, R192, R210). -/
def Obligations.RxLenTakesAtMost256 : Prop :=
  ∀ (v : Nat) (s : State),
    (v ≤ 256 → ∃ t, runTxn (scriptWrite .rxLen v) s = .next t ∧ t.rxLen.toNat = v ∧ t = { s with rxLen := t.rxLen }) ∧
    (257 ≤ v → v ≤ 511 → runTxn (scriptWrite .rxLen v) s = .next { s with fault := s.fault ||| 2#2 }) ∧
    (512 ≤ v → runTxn (scriptWrite .rxLen v) s = .refused (.overWideRegister .rxLen v))

/-- A host write of a fitting value to a register with access RW other than `RX_LEN` stores the value in that register's
field, by its number in R22, and changes nothing else (R192); the register then reads as the value and every other register
as before. -/
def Obligations.HostWriteThenRead : Prop :=
  (∀ (v : Nat) (s : State),
    (v < 2 ^ 1 → runTxn (.wr 0x04 v) s = .next { s with measFound := .defined (BitVec.ofNat 1 v) }) ∧
    (v < 2 ^ 8 → runTxn (.wr 0x05 v) s = .next { s with rssi := .defined (BitVec.ofNat 8 v) }) ∧
    (v < 2 ^ 8 → runTxn (.wr 0x06 v) s = .next { s with chan := .defined (BitVec.ofNat 8 v) }) ∧
    (v < 2 ^ 8 → runTxn (.wr 0x07 v) s = .next { s with bssid0 := .defined (BitVec.ofNat 8 v) }) ∧
    (v < 2 ^ 8 → runTxn (.wr 0x08 v) s = .next { s with bssid1 := .defined (BitVec.ofNat 8 v) }) ∧
    (v < 2 ^ 8 → runTxn (.wr 0x09 v) s = .next { s with bssid2 := .defined (BitVec.ofNat 8 v) }) ∧
    (v < 2 ^ 8 → runTxn (.wr 0x0A v) s = .next { s with bssid3 := .defined (BitVec.ofNat 8 v) }) ∧
    (v < 2 ^ 8 → runTxn (.wr 0x0B v) s = .next { s with bssid4 := .defined (BitVec.ofNat 8 v) }) ∧
    (v < 2 ^ 8 → runTxn (.wr 0x0C v) s = .next { s with bssid5 := .defined (BitVec.ofNat 8 v) }) ∧
    (v < 2 ^ 8 → runTxn (.wr 0x0D v) s = .next { s with measNa := .defined (BitVec.ofNat 8 v) }) ∧
    (v < 2 ^ 16 → runTxn (.wr 0x0E v) s = .next { s with nodeId := .defined (BitVec.ofNat 16 v) }) ∧
    (v < 2 ^ 32 → runTxn (.wr 0x0F v) s = .next { s with msgCnt := .defined (BitVec.ofNat 32 v) }) ∧
    (v < 2 ^ 8 → runTxn (.wr 0x10 v) s = .next { s with plLen := BitVec.ofNat 8 v })) ∧
  (∀ (r : Reg) (v : Nat) (s : State), regAccess r = .rw → r ≠ .rxLen → v < 2 ^ regWidth r →
    ∃ t, runTxn (scriptWrite r v) s = .next t ∧ readReg r t = .next v ∧
      (∀ r', r' ≠ r → readReg r' t = readReg r' s) ∧
      t.plbuf = s.plbuf ∧ t.txbuf = s.txbuf ∧ t.rxbuf = s.rxbuf ∧ t.script = s.script ∧ t.returned = s.returned)

/-- `RD` of each of the 35 registers, by its number in R22: it returns the value of the register's field and changes nothing
in the block; a register that is invalid is refused; `CMD` reads 0 and `CRC_OUT` the complement of `CRC_ACC` (R193, R71,
R45, row U1; log entry 2). -/
def Obligations.HostReadReturnsAndChangesNothing : Prop :=
  ∀ s : State,
    ReadsAs 0x00 .cmd s 0 ∧ ReadsAs 0x01 .fault s s.fault.toNat ∧
    ReadsAs 0x02 .crcAcc s s.crcAcc.toNat ∧ ReadsAs 0x03 .crcOut s (s.crcAcc ^^^ 0xFFFFFFFF#32).toNat ∧
    ReadsField 0x04 .measFound s s.measFound ∧ ReadsField 0x05 .rssi s s.rssi ∧
    ReadsField 0x06 .chan s s.chan ∧ ReadsField 0x07 .bssid0 s s.bssid0 ∧
    ReadsField 0x08 .bssid1 s s.bssid1 ∧ ReadsField 0x09 .bssid2 s s.bssid2 ∧
    ReadsField 0x0A .bssid3 s s.bssid3 ∧ ReadsField 0x0B .bssid4 s s.bssid4 ∧
    ReadsField 0x0C .bssid5 s s.bssid5 ∧ ReadsField 0x0D .measNa s s.measNa ∧
    ReadsField 0x0E .nodeId s s.nodeId ∧ ReadsField 0x0F .msgCnt s s.msgCnt ∧
    ReadsAs 0x10 .plLen s s.plLen.toNat ∧ ReadsAs 0x11 .txLen s s.txLen.toNat ∧
    ReadsAs 0x12 .encStatus s s.encStatus.toNat ∧ ReadsAs 0x13 .rxLen s s.rxLen.toNat ∧
    ReadsAs 0x14 .decStatus s s.decStatus.toNat ∧ ReadsField 0x15 .recNodeId s s.recNodeId ∧
    ReadsField 0x16 .recMsgCnt s s.recMsgCnt ∧ ReadsField 0x17 .recShape s s.recShape ∧
    ReadsField 0x18 .recRssi s s.recRssi ∧ ReadsField 0x19 .recChan s s.recChan ∧
    ReadsField 0x1A .recBssid0 s s.recBssid0 ∧ ReadsField 0x1B .recBssid1 s s.recBssid1 ∧
    ReadsField 0x1C .recBssid2 s s.recBssid2 ∧ ReadsField 0x1D .recBssid3 s s.recBssid3 ∧
    ReadsField 0x1E .recBssid4 s s.recBssid4 ∧ ReadsField 0x1F .recBssid5 s s.recBssid5 ∧
    ReadsField 0x20 .recSent0 s s.recSent0 ∧ ReadsField 0x21 .recSent1 s s.recSent1 ∧
    ReadsField 0x22 .recSent2 s s.recSent2

/-- `WB` to `PLBUF` or `RXBUF` makes just that byte defined; `RB` returns a defined byte and changes nothing in the block,
and is refused on an invalid one (R194, R45). -/
def Obligations.BufferByteWriteAndRead : Prop :=
  (∀ (b : Buf) (i : Nat) (v : Byte) (s : State), b ≠ .txbuf → i < bufSize b →
    ∃ t, runTxn (.wb b i v.toNat) s = .next t ∧ (t.buf b).read i = some v ∧
      (∀ j, j ≠ i → (t.buf b).read j = (s.buf b).read j) ∧ t = s.setBuf b (t.buf b)) ∧
  (∀ (b : Buf) (i : Nat) (s : State), i < bufSize b →
    (∀ v, (s.buf b).read i = some v → runTxn (.rb b i) s = .next { s with returned := s.returned ++ [v.toNat] }) ∧
    ((s.buf b).read i = none → runTxn (.rb b i) s = .refused (.invalidRead (.byte b i))))

/-- The access violations of R68 get no next state: a register with access R, `TXBUF`, a register number above 0x22, an
offset outside the buffer, a value that is too wide (row U2; which stop each gets is the model's choice, log entry 4). -/
def Obligations.AccessViolationsStop : Prop :=
  (∀ (r : Reg) (v : Nat) (s : State), regAccess r = .r → runTxn (scriptWrite r v) s = .refused (.readOnlyRegister r)) ∧
  (∀ (r : Reg) (v : Nat) (s : State), regAccess r ≠ .r → 2 ^ regWidth r ≤ v →
    runTxn (scriptWrite r v) s = .refused (.overWideRegister r v)) ∧
  (∀ (n v : Nat) (s : State), 0x22 < n → runTxn (.wr n v) s = .fault (.noSuchRegister n) ∧
    runTxn (.rd n) s = .fault (.noSuchRegister n)) ∧
  (∀ (i v : Nat) (s : State), runTxn (.wb .txbuf i v) s = .refused (.readOnlyBuffer .txbuf)) ∧
  (∀ (b : Buf) (i v : Nat) (s : State), bufSize b ≤ i →
    runTxn (.rb b i) s = .fault (.noSuchOffset b i) ∧
    (b ≠ .txbuf → v < 256 → runTxn (.wb b i v) s = .fault (.noSuchOffset b i))) ∧
  (∀ (b : Buf) (i v : Nat) (s : State), b ≠ .txbuf → 256 ≤ v → runTxn (.wb b i v) s = .refused (.overWideByte v))

/-! ### The whole machine -/

/-- What an instruction that completes leaves alone: `FAULT`, the measurement registers, `MEAS_NA`, `NODE_ID`, `MSG_CNT` and
the host's own lists; a command word also `RX_LEN` and `RXBUF`; `ENCODE` and `DECODE` also `PL_LEN` and `PLBUF` (R49, R204,
R239). `CRC_ACC`, which `CRC_BYTE` reads and writes, is not among them. The lists are log entry 2, the frame rows log entry
3. -/
def Obligations.CommandsLeaveInputsAlone : Prop :=
  ∀ (i : Instr) (s t : State), exec i s = .next t →
    t.fault = s.fault ∧ t.measFound = s.measFound ∧ t.rssi = s.rssi ∧ t.chan = s.chan ∧ t.bssid0 = s.bssid0 ∧
    t.bssid1 = s.bssid1 ∧ t.bssid2 = s.bssid2 ∧ t.bssid3 = s.bssid3 ∧ t.bssid4 = s.bssid4 ∧ t.bssid5 = s.bssid5 ∧
    t.measNa = s.measNa ∧ t.nodeId = s.nodeId ∧ t.msgCnt = s.msgCnt ∧ t.script = s.script ∧ t.returned = s.returned ∧
    ((∃ w, encode i = .cmd w) → t.rxLen = s.rxLen ∧ t.rxbuf = s.rxbuf) ∧
    (i = .encode ∨ i = .decode → t.plLen = s.plLen ∧ t.plbuf = s.plbuf)

/-- No instruction stops the machine with a fault, and the only refusal one can meet is the read of an invalid location
(R200, R45). -/
def Obligations.InstructionsStopOnlyOnInvalidReads : Prop :=
  ∀ (i : Instr) (s : State), (∃ t, exec i s = .next t) ∨ ∃ loc, exec i s = .refused (.invalidRead loc)

/-- `FAULT` bits are sticky: only reset clears one, and only a reserved word or an over-range `RX_LEN` write sets one
(R24, R210). -/
def Obligations.FaultBitsAreSticky : Prop :=
  ∀ (s t : State) (h : Txn) (rest : List Txn), s.script = h :: rest → h ≠ .reset → step s = .next t →
    s.fault &&& t.fault = s.fault ∧
    (t.fault ≠ s.fault → (∃ w : Half, ReservedWord w ∧ h = .wr 0 w.toNat ∧ t.fault = s.fault ||| 1#2) ∨
      ∃ v, 257 ≤ v ∧ v ≤ 511 ∧ h = scriptWrite .rxLen v ∧ t.fault = s.fault ||| 2#2)

/-- Only `ENCODE` and reset change `TXBUF`, `TX_LEN` and `ENC_STATUS` (R33, R239, R240). -/
def Obligations.OnlyEncodeChangesTheFrame : Prop :=
  ∀ (s t : State) (h : Txn) (rest : List Txn), s.script = h :: rest → step s = .next t →
    h ≠ .reset → h ≠ scriptCmd .encode → t.txbuf = s.txbuf ∧ t.txLen = s.txLen ∧ t.encStatus = s.encStatus

/-- Only `DECODE`, alone or at the end of a received frame's hand-off, and reset change `DEC_STATUS` and the record (R35,
R239; log entry 3). -/
def Obligations.OnlyDecodeChangesTheRecord : Prop :=
  ∀ (s t : State) (h : Txn) (rest : List Txn), s.script = h :: rest → step s = .next t →
    h ≠ .reset → h ≠ scriptCmd .decode → (∀ raw, h ≠ .receive raw) →
    t.decStatus = s.decStatus ∧ SameRecord s t

/-- Every step keeps the invariant of the machine: buffers in canonical form inside their sizes and `RX_LEN` legal; a
legal frame in `TXBUF` exactly when `ENC_STATUS` is `OK`, and otherwise no frame and `TX_LEN` 0; a record exactly when
`DEC_STATUS` is `OK`, and otherwise no record register defined (R32 to R35, R221). -/
def Obligations.EveryStepKeepsTheInvariant : Prop :=
  ∀ s t : State, Inv s → step s = .next t → Inv t

/-- The reset state meets the invariant. -/
def Obligations.ResetMeetsTheInvariant : Prop := Inv State.reset
end

