-- ==== Sys2Proof/Laws/Bytes.lean ====
section
/-!
SUPPORT. Big-endian pack and unpack undo each other (R14); signed bytes (R15).
-/

namespace Sys2Proof.Machine

@[simp] theorem be16_length (v : Half) : (be16 v).length = 2 := rfl

@[simp] theorem be32_length (v : Word) : (be32 v).length = 4 := rfl

theorem unbe_two (a b : Byte) : unbe [a, b] = a.toNat * 256 + b.toNat := by
  simp [unbe]

theorem unbe_four (a b c d : Byte) :
    unbe [a, b, c, d] = a.toNat * 2 ^ 24 + b.toNat * 2 ^ 16 + c.toNat * 2 ^ 8 + d.toNat := by
  simp [unbe]; ring

theorem toNat_unbe16 (a b : Byte) : (unbe16 [a, b]).toNat = a.toNat * 256 + b.toNat := by
  have := a.isLt; have := b.isLt
  simp only [unbe16, unbe_two, BitVec.toNat_ofNat]; omega

theorem toNat_unbe32 (a b c d : Byte) :
    (unbe32 [a, b, c, d]).toNat = a.toNat * 2 ^ 24 + b.toNat * 2 ^ 16 + c.toNat * 2 ^ 8 + d.toNat := by
  have := a.isLt; have := b.isLt; have := c.isLt; have := d.isLt
  simp only [unbe32, unbe_four, BitVec.toNat_ofNat]; omega

theorem toNat_extract_byte {w : Nat} (v : BitVec w) (k : Nat) :
    (v.extractLsb' k 8).toNat = v.toNat / 2 ^ k % 256 := by
  simp [BitVec.extractLsb'_toNat, Nat.shiftRight_eq_div_pow]

@[simp] theorem unbe16_be16 (v : Half) : unbe16 (be16 v) = v := by
  apply BitVec.eq_of_toNat_eq
  have := v.isLt
  rw [be16, toNat_unbe16, toNat_extract_byte, toNat_extract_byte]; omega

@[simp] theorem unbe32_be32 (v : Word) : unbe32 (be32 v) = v := by
  apply BitVec.eq_of_toNat_eq
  have := v.isLt
  rw [be32, toNat_unbe32, toNat_extract_byte, toNat_extract_byte, toNat_extract_byte, toNat_extract_byte]; omega

@[simp] theorem be16_unbe16 (a b : Byte) : be16 (unbe16 [a, b]) = [a, b] := by
  have := a.isLt; have := b.isLt
  rw [be16]
  congr 1
  · apply BitVec.eq_of_toNat_eq; rw [toNat_extract_byte, toNat_unbe16]; omega
  · congr 1; apply BitVec.eq_of_toNat_eq; rw [toNat_extract_byte, toNat_unbe16]; omega

@[simp] theorem be32_unbe32 (a b c d : Byte) : be32 (unbe32 [a, b, c, d]) = [a, b, c, d] := by
  have := a.isLt; have := b.isLt; have := c.isLt; have := d.isLt
  rw [be32]
  congr 1
  · apply BitVec.eq_of_toNat_eq; rw [toNat_extract_byte, toNat_unbe32]; omega
  congr 1
  · apply BitVec.eq_of_toNat_eq; rw [toNat_extract_byte, toNat_unbe32]; omega
  congr 1
  · apply BitVec.eq_of_toNat_eq; rw [toNat_extract_byte, toNat_unbe32]; omega
  congr 1
  · apply BitVec.eq_of_toNat_eq; rw [toNat_extract_byte, toNat_unbe32]; omega

theorem be32_injective {v w : Word} (h : be32 v = be32 w) : v = w := by
  rw [← unbe32_be32 v, h, unbe32_be32]

theorem be16_injective {v w : Half} (h : be16 v = be16 w) : v = w := by
  rw [← unbe16_be16 v, h, unbe16_be16]

theorem toNat_twos8 (i : SByte) : ((twos8 i).toNat : Int) = i.val % 256 := by
  obtain ⟨i, h1, h2⟩ := i
  simp only [twos8, BitVec.toNat_ofNat]; omega

theorem sint8_val (b : Byte) : (sint8 b).val = if b.toNat ≤ 127 then (b.toNat : Int) else (b.toNat : Int) - 256 := by
  unfold sint8; split <;> rfl

@[simp] theorem twos8_sint8 (b : Byte) : twos8 (sint8 b) = b := by
  apply BitVec.eq_of_toNat_eq
  have h := toNat_twos8 (sint8 b)
  rw [sint8_val] at h
  have := b.isLt
  split at h <;> omega

@[simp] theorem sint8_twos8 (i : SByte) : sint8 (twos8 i) = i := by
  apply Subtype.ext
  rw [sint8_val]
  have := toNat_twos8 i
  obtain ⟨i, h1, h2⟩ := i
  simp only at this ⊢
  split <;> omega

end Sys2Proof.Machine
end

