-- ==== Sys2Proof/Laws/Crc.lean ====
section
/-!
SUPPORT. The CRC byte step is linear over GF(2) and one to one; the accumulator is incremental (R114, R115).
-/

namespace Sys2Proof.Machine

theorem crcShift_of_even {a : Word} (h : a.getLsbD 0 = false) : crcShift a = a >>> 1 := by
  rw [crcShift, h]; rfl

theorem crcShift_of_odd {a : Word} (h : a.getLsbD 0 = true) : crcShift a = (a >>> 1) ^^^ Config.crcPoly := by
  rw [crcShift, if_pos h]

/-- One shift step is linear. -/
theorem crcShift_xor (a b : Word) : crcShift (a ^^^ b) = crcShift a ^^^ crcShift b := by
  have hx : (a ^^^ b).getLsbD 0 = (a.getLsbD 0 ^^ b.getLsbD 0) := BitVec.getLsbD_xor
  have hs : (a ^^^ b) >>> 1 = (a >>> 1) ^^^ (b >>> 1) := BitVec.ushiftRight_xor_distrib a b 1
  rcases ha : a.getLsbD 0 with _ | _ <;> rcases hb : b.getLsbD 0 with _ | _ <;> rw [ha, hb] at hx
  · rw [crcShift_of_even hx, crcShift_of_even ha, crcShift_of_even hb, hs]
  · rw [crcShift_of_odd hx, crcShift_of_even ha, crcShift_of_odd hb, hs, BitVec.xor_assoc]
  · rw [crcShift_of_odd hx, crcShift_of_odd ha, crcShift_of_even hb, hs]; ac_rfl
  · rw [crcShift_of_even hx, crcShift_of_odd ha, crcShift_of_odd hb, hs,
      show a >>> 1 ^^^ Config.crcPoly ^^^ (b >>> 1 ^^^ Config.crcPoly)
        = (a >>> 1 ^^^ b >>> 1) ^^^ (Config.crcPoly ^^^ Config.crcPoly) by ac_rfl, BitVec.xor_self, BitVec.xor_zero]

/-- A shift step sends only zero to zero: the polynomial's top coefficient is set. -/
theorem crcShift_eq_zero {a : Word} (h : crcShift a = 0#32) : a = 0#32 := by
  rcases ha : a.getLsbD 0 with _ | _
  · rw [crcShift_of_even ha] at h
    apply BitVec.eq_of_toNat_eq
    have h0 := congrArg BitVec.toNat h
    have hb : a.toNat.testBit 0 = false := ha
    simp only [BitVec.toNat_ushiftRight, Nat.shiftRight_eq_div_pow, BitVec.toNat_ofNat, Nat.testBit_zero,
      decide_eq_false_iff_not] at h0 hb
    simp only [BitVec.toNat_ofNat]; omega
  · rw [crcShift_of_odd ha] at h
    have h31 := congrArg (fun v : Word => v.getLsbD 31) h
    simp [Config.crcPoly] at h31

theorem crcShifts_xor (n : Nat) (a b : Word) : crcShifts n (a ^^^ b) = crcShifts n a ^^^ crcShifts n b := by
  induction n generalizing a b with
  | zero => rfl
  | succ n ih => simp only [crcShifts, crcShift_xor, ih]

theorem crcShifts_eq_zero {n : Nat} {a : Word} (h : crcShifts n a = 0#32) : a = 0#32 := by
  induction n generalizing a with
  | zero => exact h
  | succ n ih => exact crcShift_eq_zero (ih h)

/-- The byte step is linear in the accumulator and the byte together. -/
theorem crcStep_xor (x y : Word) (b c : Byte) : crcStep (x ^^^ y) (b ^^^ c) = crcStep x b ^^^ crcStep y c := by
  unfold crcStep
  rw [← crcShifts_xor, BitVec.setWidth_xor]
  congr 1; ac_rfl

@[simp] theorem crcStep_zero : crcStep 0#32 0#8 = 0#32 := by decide

/-- A byte step from a non-zero accumulator over a zero byte stays non-zero. -/
theorem crcStep_ne_zero {x : Word} (h : x ≠ 0#32) : crcStep x 0#8 ≠ 0#32 := fun h0 => by
  have := crcShifts_eq_zero h0
  simp at this; exact h this

/-- The accumulator is incremental (R115 b). -/
theorem crcAccFrom_append (init : Word) (s t : List Byte) :
    crcAccFrom init (s ++ t) = crcAccFrom (crcAccFrom init s) t := List.foldl_append

@[simp] theorem crcAccFrom_nil (init : Word) : crcAccFrom init [] = init := rfl

@[simp] theorem crcAccFrom_cons (init : Word) (b : Byte) (s : List Byte) :
    crcAccFrom init (b :: s) = crcAccFrom (crcStep init b) s := rfl

/-- The accumulator is linear in the initial value and the bytes together. -/
theorem crcAccFrom_xor (x y : Word) (a e : List Byte) (h : a.length = e.length) :
    crcAccFrom (x ^^^ y) (List.zipWith (· ^^^ ·) a e) = crcAccFrom x a ^^^ crcAccFrom y e := by
  induction a generalizing x y e with
  | nil => cases e with
    | nil => rfl
    | cons => simp at h
  | cons b a ih => cases e with
    | nil => simp at h
    | cons c e =>
      simp only [List.zipWith_cons_cons, crcAccFrom_cons, crcStep_xor]
      exact ih _ _ _ (by simpa using h)

theorem crcAccFrom_zeros (n : Nat) : crcAccFrom 0#32 (List.replicate n 0#8) = 0#32 := by
  induction n with
  | zero => rfl
  | succ n ih => rw [List.replicate_succ, crcAccFrom_cons, crcStep_zero, ih]

theorem crcAccFrom_zeros_ne_zero {x : Word} (n : Nat) (h : x ≠ 0#32) :
    crcAccFrom x (List.replicate n 0#8) ≠ 0#32 := by
  induction n generalizing x with
  | zero => exact h
  | succ n ih => rw [List.replicate_succ, crcAccFrom_cons]; exact ih (crcStep_ne_zero h)

/-- The shifts of an accumulator whose low `n` bits are zero only move it (R114). -/
theorem crcShifts_of_low_zero {n : Nat} {a : Word} (h : ∀ k, k < n → a.getLsbD k = false) : crcShifts n a = a >>> n := by
  induction n generalizing a with
  | zero => simp [crcShifts]
  | succ n ih =>
    rw [crcShifts, crcShift_of_even (h 0 (by omega)), ih]
    · rw [← BitVec.shiftRight_add, Nat.add_comm]
    · intro k hk; rw [BitVec.getLsbD_ushiftRight]; exact h _ (by omega)

/-- The table-driven byte step is the bitwise one (R114). -/
theorem crcShifts_by_table (a : Word) : crcShifts 8 a = (a >>> 8) ^^^ crcTableEntry (a.extractLsb' 0 8) := by
  have hsplit : a = (a >>> 8 <<< 8) ^^^ (a.extractLsb' 0 8).setWidth 32 := by
    apply BitVec.eq_of_getLsbD_eq
    intro k hk
    simp only [BitVec.getLsbD_xor, BitVec.getLsbD_shiftLeft, BitVec.getLsbD_ushiftRight, BitVec.getLsbD_setWidth,
      BitVec.getLsbD_extractLsb']
    by_cases h8 : k < 8 <;> simp [h8, hk]
    congr 1; omega
  have hlow : crcShifts 8 (a >>> 8 <<< 8) = (a >>> 8 <<< 8) >>> 8 :=
    crcShifts_of_low_zero fun k hk => by simp [BitVec.getLsbD_shiftLeft, hk]
  have hback : (a >>> 8 <<< 8) >>> 8 = a >>> 8 := by
    apply BitVec.eq_of_getLsbD_eq
    intro k hk
    simp only [BitVec.getLsbD_shiftLeft, BitVec.getLsbD_ushiftRight]
    by_cases h : 8 + k < 32
    · simp [h]
    · simp [h, BitVec.getLsbD_of_ge a (8 + k) (by omega)]
  conv_lhs => rw [hsplit]
  rw [crcShifts_xor, hlow, hback]; rfl

end Sys2Proof.Machine
end

