-- ==== Sys2Proof/Laws/Decode.lean ====
section
/-!
SUPPORT. Command words and their two fields (R91, R93).
-/

namespace Sys2Proof

open Sys2Proof.Machine

/-- The word of R93 as an integer: `imm8 * 256 + op`. -/
theorem toNat_commandWord (imm8 op : Byte) : (commandWord imm8 op).toNat = imm8.toNat * 256 + op.toNat := by
  have h := op.isLt
  rw [commandWord, BitVec.toNat_append, ← Nat.shiftLeft_add_eq_or_of_lt h, Nat.shiftLeft_eq]

theorem toNat_opcodeOf (w : Half) : (opcodeOf w).toNat = w.toNat % 256 := by
  rw [opcodeOf, toNat_extract_byte]; simp

theorem toNat_imm8Of (w : Half) : (imm8Of w).toNat = w.toNat / 256 := by
  have := w.isLt
  rw [imm8Of, toNat_extract_byte]; omega

@[simp] theorem opcodeOf_commandWord (imm8 op : Byte) : opcodeOf (commandWord imm8 op) = op := by
  apply BitVec.eq_of_toNat_eq
  have := op.isLt
  rw [toNat_opcodeOf, toNat_commandWord]; omega

@[simp] theorem imm8Of_commandWord (imm8 op : Byte) : imm8Of (commandWord imm8 op) = imm8 := by
  apply BitVec.eq_of_toNat_eq
  have := op.isLt
  rw [toNat_imm8Of, toNat_commandWord]; omega

/-- A word is its two fields. -/
@[simp] theorem commandWord_fields (w : Half) : commandWord (imm8Of w) (opcodeOf w) = w := by
  apply BitVec.eq_of_toNat_eq
  rw [toNat_commandWord, toNat_opcodeOf, toNat_imm8Of]; omega

/-- The commands with no immediate: which opcode gives which (R92). -/
theorem plainCommand_eq_some {op : Byte} {i : Instr} (h : plainCommand op = some i) :
    (op = 0x00#8 ∧ i = .nop) ∨ (op = 0x01#8 ∧ i = .crcInit) ∨ (op = 0x10#8 ∧ i = .plPresent) ∨
    (op = 0x11#8 ∧ i = .plAbsent) ∨ (op = 0x12#8 ∧ i = .plBuild) ∨ (op = 0x20#8 ∧ i = .encode) ∨
    (op = 0x30#8 ∧ i = .decode) := by
  unfold plainCommand at h
  split_ifs at h <;> cases h <;> simp_all

/-- Everything `decodeWord` accepts (R92). -/
theorem decodeWord_eq_ok {w : Half} {i : Instr} (h : decodeWord w = .ok i) :
    (opcodeOf w = 0x02#8 ∧ i = .crcByte (imm8Of w)) ∨
    (opcodeOf w ≠ 0x02#8 ∧ imm8Of w = 0#8 ∧ plainCommand (opcodeOf w) = some i) := by
  unfold decodeWord at h
  by_cases h2 : opcodeOf w = 0x02#8
  · rw [if_pos h2] at h; cases h; exact .inl ⟨h2, rfl⟩
  · rw [if_neg h2] at h
    cases hp : plainCommand (opcodeOf w) with
    | none => rw [hp] at h; cases h
    | some j =>
      rw [hp] at h; simp only at h
      split_ifs at h with h0
      cases h; exact .inr ⟨h2, h0, rfl⟩

end Sys2Proof
end

