-- ==== Sys2Proof/Laws/State.lean ====
section
/-!
SUPPORT. One lemma per field per named update of State, true by rfl.
-/

namespace Sys2Proof.Machine

@[simp] theorem setIllCmd_fault (s : State) : (setIllCmd s).fault = s.fault ||| 1#2 := rfl
@[simp] theorem setIllCmd_crcAcc (s : State) : (setIllCmd s).crcAcc = s.crcAcc := rfl
@[simp] theorem setIllCmd_measFound (s : State) : (setIllCmd s).measFound = s.measFound := rfl
@[simp] theorem setIllCmd_rssi (s : State) : (setIllCmd s).rssi = s.rssi := rfl
@[simp] theorem setIllCmd_chan (s : State) : (setIllCmd s).chan = s.chan := rfl
@[simp] theorem setIllCmd_bssid0 (s : State) : (setIllCmd s).bssid0 = s.bssid0 := rfl
@[simp] theorem setIllCmd_bssid1 (s : State) : (setIllCmd s).bssid1 = s.bssid1 := rfl
@[simp] theorem setIllCmd_bssid2 (s : State) : (setIllCmd s).bssid2 = s.bssid2 := rfl
@[simp] theorem setIllCmd_bssid3 (s : State) : (setIllCmd s).bssid3 = s.bssid3 := rfl
@[simp] theorem setIllCmd_bssid4 (s : State) : (setIllCmd s).bssid4 = s.bssid4 := rfl
@[simp] theorem setIllCmd_bssid5 (s : State) : (setIllCmd s).bssid5 = s.bssid5 := rfl
@[simp] theorem setIllCmd_measNa (s : State) : (setIllCmd s).measNa = s.measNa := rfl
@[simp] theorem setIllCmd_nodeId (s : State) : (setIllCmd s).nodeId = s.nodeId := rfl
@[simp] theorem setIllCmd_msgCnt (s : State) : (setIllCmd s).msgCnt = s.msgCnt := rfl
@[simp] theorem setIllCmd_plLen (s : State) : (setIllCmd s).plLen = s.plLen := rfl
@[simp] theorem setIllCmd_txLen (s : State) : (setIllCmd s).txLen = s.txLen := rfl
@[simp] theorem setIllCmd_encStatus (s : State) : (setIllCmd s).encStatus = s.encStatus := rfl
@[simp] theorem setIllCmd_rxLen (s : State) : (setIllCmd s).rxLen = s.rxLen := rfl
@[simp] theorem setIllCmd_decStatus (s : State) : (setIllCmd s).decStatus = s.decStatus := rfl
@[simp] theorem setIllCmd_recNodeId (s : State) : (setIllCmd s).recNodeId = s.recNodeId := rfl
@[simp] theorem setIllCmd_recMsgCnt (s : State) : (setIllCmd s).recMsgCnt = s.recMsgCnt := rfl
@[simp] theorem setIllCmd_recShape (s : State) : (setIllCmd s).recShape = s.recShape := rfl
@[simp] theorem setIllCmd_recRssi (s : State) : (setIllCmd s).recRssi = s.recRssi := rfl
@[simp] theorem setIllCmd_recChan (s : State) : (setIllCmd s).recChan = s.recChan := rfl
@[simp] theorem setIllCmd_recBssid0 (s : State) : (setIllCmd s).recBssid0 = s.recBssid0 := rfl
@[simp] theorem setIllCmd_recBssid1 (s : State) : (setIllCmd s).recBssid1 = s.recBssid1 := rfl
@[simp] theorem setIllCmd_recBssid2 (s : State) : (setIllCmd s).recBssid2 = s.recBssid2 := rfl
@[simp] theorem setIllCmd_recBssid3 (s : State) : (setIllCmd s).recBssid3 = s.recBssid3 := rfl
@[simp] theorem setIllCmd_recBssid4 (s : State) : (setIllCmd s).recBssid4 = s.recBssid4 := rfl
@[simp] theorem setIllCmd_recBssid5 (s : State) : (setIllCmd s).recBssid5 = s.recBssid5 := rfl
@[simp] theorem setIllCmd_recSent0 (s : State) : (setIllCmd s).recSent0 = s.recSent0 := rfl
@[simp] theorem setIllCmd_recSent1 (s : State) : (setIllCmd s).recSent1 = s.recSent1 := rfl
@[simp] theorem setIllCmd_recSent2 (s : State) : (setIllCmd s).recSent2 = s.recSent2 := rfl
@[simp] theorem setIllCmd_plbuf (s : State) : (setIllCmd s).plbuf = s.plbuf := rfl
@[simp] theorem setIllCmd_txbuf (s : State) : (setIllCmd s).txbuf = s.txbuf := rfl
@[simp] theorem setIllCmd_rxbuf (s : State) : (setIllCmd s).rxbuf = s.rxbuf := rfl
@[simp] theorem setIllCmd_script (s : State) : (setIllCmd s).script = s.script := rfl
@[simp] theorem setIllCmd_returned (s : State) : (setIllCmd s).returned = s.returned := rfl

@[simp] theorem setIllLen_fault (s : State) : (setIllLen s).fault = s.fault ||| 2#2 := rfl
@[simp] theorem setIllLen_crcAcc (s : State) : (setIllLen s).crcAcc = s.crcAcc := rfl
@[simp] theorem setIllLen_measFound (s : State) : (setIllLen s).measFound = s.measFound := rfl
@[simp] theorem setIllLen_rssi (s : State) : (setIllLen s).rssi = s.rssi := rfl
@[simp] theorem setIllLen_chan (s : State) : (setIllLen s).chan = s.chan := rfl
@[simp] theorem setIllLen_bssid0 (s : State) : (setIllLen s).bssid0 = s.bssid0 := rfl
@[simp] theorem setIllLen_bssid1 (s : State) : (setIllLen s).bssid1 = s.bssid1 := rfl
@[simp] theorem setIllLen_bssid2 (s : State) : (setIllLen s).bssid2 = s.bssid2 := rfl
@[simp] theorem setIllLen_bssid3 (s : State) : (setIllLen s).bssid3 = s.bssid3 := rfl
@[simp] theorem setIllLen_bssid4 (s : State) : (setIllLen s).bssid4 = s.bssid4 := rfl
@[simp] theorem setIllLen_bssid5 (s : State) : (setIllLen s).bssid5 = s.bssid5 := rfl
@[simp] theorem setIllLen_measNa (s : State) : (setIllLen s).measNa = s.measNa := rfl
@[simp] theorem setIllLen_nodeId (s : State) : (setIllLen s).nodeId = s.nodeId := rfl
@[simp] theorem setIllLen_msgCnt (s : State) : (setIllLen s).msgCnt = s.msgCnt := rfl
@[simp] theorem setIllLen_plLen (s : State) : (setIllLen s).plLen = s.plLen := rfl
@[simp] theorem setIllLen_txLen (s : State) : (setIllLen s).txLen = s.txLen := rfl
@[simp] theorem setIllLen_encStatus (s : State) : (setIllLen s).encStatus = s.encStatus := rfl
@[simp] theorem setIllLen_rxLen (s : State) : (setIllLen s).rxLen = s.rxLen := rfl
@[simp] theorem setIllLen_decStatus (s : State) : (setIllLen s).decStatus = s.decStatus := rfl
@[simp] theorem setIllLen_recNodeId (s : State) : (setIllLen s).recNodeId = s.recNodeId := rfl
@[simp] theorem setIllLen_recMsgCnt (s : State) : (setIllLen s).recMsgCnt = s.recMsgCnt := rfl
@[simp] theorem setIllLen_recShape (s : State) : (setIllLen s).recShape = s.recShape := rfl
@[simp] theorem setIllLen_recRssi (s : State) : (setIllLen s).recRssi = s.recRssi := rfl
@[simp] theorem setIllLen_recChan (s : State) : (setIllLen s).recChan = s.recChan := rfl
@[simp] theorem setIllLen_recBssid0 (s : State) : (setIllLen s).recBssid0 = s.recBssid0 := rfl
@[simp] theorem setIllLen_recBssid1 (s : State) : (setIllLen s).recBssid1 = s.recBssid1 := rfl
@[simp] theorem setIllLen_recBssid2 (s : State) : (setIllLen s).recBssid2 = s.recBssid2 := rfl
@[simp] theorem setIllLen_recBssid3 (s : State) : (setIllLen s).recBssid3 = s.recBssid3 := rfl
@[simp] theorem setIllLen_recBssid4 (s : State) : (setIllLen s).recBssid4 = s.recBssid4 := rfl
@[simp] theorem setIllLen_recBssid5 (s : State) : (setIllLen s).recBssid5 = s.recBssid5 := rfl
@[simp] theorem setIllLen_recSent0 (s : State) : (setIllLen s).recSent0 = s.recSent0 := rfl
@[simp] theorem setIllLen_recSent1 (s : State) : (setIllLen s).recSent1 = s.recSent1 := rfl
@[simp] theorem setIllLen_recSent2 (s : State) : (setIllLen s).recSent2 = s.recSent2 := rfl
@[simp] theorem setIllLen_plbuf (s : State) : (setIllLen s).plbuf = s.plbuf := rfl
@[simp] theorem setIllLen_txbuf (s : State) : (setIllLen s).txbuf = s.txbuf := rfl
@[simp] theorem setIllLen_rxbuf (s : State) : (setIllLen s).rxbuf = s.rxbuf := rfl
@[simp] theorem setIllLen_script (s : State) : (setIllLen s).script = s.script := rfl
@[simp] theorem setIllLen_returned (s : State) : (setIllLen s).returned = s.returned := rfl

@[simp] theorem noteReturned_fault (vs : List Nat) (s : State) : (noteReturned vs s).fault = s.fault := rfl
@[simp] theorem noteReturned_crcAcc (vs : List Nat) (s : State) : (noteReturned vs s).crcAcc = s.crcAcc := rfl
@[simp] theorem noteReturned_measFound (vs : List Nat) (s : State) : (noteReturned vs s).measFound = s.measFound := rfl
@[simp] theorem noteReturned_rssi (vs : List Nat) (s : State) : (noteReturned vs s).rssi = s.rssi := rfl
@[simp] theorem noteReturned_chan (vs : List Nat) (s : State) : (noteReturned vs s).chan = s.chan := rfl
@[simp] theorem noteReturned_bssid0 (vs : List Nat) (s : State) : (noteReturned vs s).bssid0 = s.bssid0 := rfl
@[simp] theorem noteReturned_bssid1 (vs : List Nat) (s : State) : (noteReturned vs s).bssid1 = s.bssid1 := rfl
@[simp] theorem noteReturned_bssid2 (vs : List Nat) (s : State) : (noteReturned vs s).bssid2 = s.bssid2 := rfl
@[simp] theorem noteReturned_bssid3 (vs : List Nat) (s : State) : (noteReturned vs s).bssid3 = s.bssid3 := rfl
@[simp] theorem noteReturned_bssid4 (vs : List Nat) (s : State) : (noteReturned vs s).bssid4 = s.bssid4 := rfl
@[simp] theorem noteReturned_bssid5 (vs : List Nat) (s : State) : (noteReturned vs s).bssid5 = s.bssid5 := rfl
@[simp] theorem noteReturned_measNa (vs : List Nat) (s : State) : (noteReturned vs s).measNa = s.measNa := rfl
@[simp] theorem noteReturned_nodeId (vs : List Nat) (s : State) : (noteReturned vs s).nodeId = s.nodeId := rfl
@[simp] theorem noteReturned_msgCnt (vs : List Nat) (s : State) : (noteReturned vs s).msgCnt = s.msgCnt := rfl
@[simp] theorem noteReturned_plLen (vs : List Nat) (s : State) : (noteReturned vs s).plLen = s.plLen := rfl
@[simp] theorem noteReturned_txLen (vs : List Nat) (s : State) : (noteReturned vs s).txLen = s.txLen := rfl
@[simp] theorem noteReturned_encStatus (vs : List Nat) (s : State) : (noteReturned vs s).encStatus = s.encStatus := rfl
@[simp] theorem noteReturned_rxLen (vs : List Nat) (s : State) : (noteReturned vs s).rxLen = s.rxLen := rfl
@[simp] theorem noteReturned_decStatus (vs : List Nat) (s : State) : (noteReturned vs s).decStatus = s.decStatus := rfl
@[simp] theorem noteReturned_recNodeId (vs : List Nat) (s : State) : (noteReturned vs s).recNodeId = s.recNodeId := rfl
@[simp] theorem noteReturned_recMsgCnt (vs : List Nat) (s : State) : (noteReturned vs s).recMsgCnt = s.recMsgCnt := rfl
@[simp] theorem noteReturned_recShape (vs : List Nat) (s : State) : (noteReturned vs s).recShape = s.recShape := rfl
@[simp] theorem noteReturned_recRssi (vs : List Nat) (s : State) : (noteReturned vs s).recRssi = s.recRssi := rfl
@[simp] theorem noteReturned_recChan (vs : List Nat) (s : State) : (noteReturned vs s).recChan = s.recChan := rfl
@[simp] theorem noteReturned_recBssid0 (vs : List Nat) (s : State) : (noteReturned vs s).recBssid0 = s.recBssid0 := rfl
@[simp] theorem noteReturned_recBssid1 (vs : List Nat) (s : State) : (noteReturned vs s).recBssid1 = s.recBssid1 := rfl
@[simp] theorem noteReturned_recBssid2 (vs : List Nat) (s : State) : (noteReturned vs s).recBssid2 = s.recBssid2 := rfl
@[simp] theorem noteReturned_recBssid3 (vs : List Nat) (s : State) : (noteReturned vs s).recBssid3 = s.recBssid3 := rfl
@[simp] theorem noteReturned_recBssid4 (vs : List Nat) (s : State) : (noteReturned vs s).recBssid4 = s.recBssid4 := rfl
@[simp] theorem noteReturned_recBssid5 (vs : List Nat) (s : State) : (noteReturned vs s).recBssid5 = s.recBssid5 := rfl
@[simp] theorem noteReturned_recSent0 (vs : List Nat) (s : State) : (noteReturned vs s).recSent0 = s.recSent0 := rfl
@[simp] theorem noteReturned_recSent1 (vs : List Nat) (s : State) : (noteReturned vs s).recSent1 = s.recSent1 := rfl
@[simp] theorem noteReturned_recSent2 (vs : List Nat) (s : State) : (noteReturned vs s).recSent2 = s.recSent2 := rfl
@[simp] theorem noteReturned_plbuf (vs : List Nat) (s : State) : (noteReturned vs s).plbuf = s.plbuf := rfl
@[simp] theorem noteReturned_txbuf (vs : List Nat) (s : State) : (noteReturned vs s).txbuf = s.txbuf := rfl
@[simp] theorem noteReturned_rxbuf (vs : List Nat) (s : State) : (noteReturned vs s).rxbuf = s.rxbuf := rfl
@[simp] theorem noteReturned_script (vs : List Nat) (s : State) : (noteReturned vs s).script = s.script := rfl
@[simp] theorem noteReturned_returned (vs : List Nat) (s : State) : (noteReturned vs s).returned = s.returned ++ vs := rfl

@[simp] theorem clearRecord_fault (s : State) : (clearRecord s).fault = s.fault := rfl
@[simp] theorem clearRecord_crcAcc (s : State) : (clearRecord s).crcAcc = s.crcAcc := rfl
@[simp] theorem clearRecord_measFound (s : State) : (clearRecord s).measFound = s.measFound := rfl
@[simp] theorem clearRecord_rssi (s : State) : (clearRecord s).rssi = s.rssi := rfl
@[simp] theorem clearRecord_chan (s : State) : (clearRecord s).chan = s.chan := rfl
@[simp] theorem clearRecord_bssid0 (s : State) : (clearRecord s).bssid0 = s.bssid0 := rfl
@[simp] theorem clearRecord_bssid1 (s : State) : (clearRecord s).bssid1 = s.bssid1 := rfl
@[simp] theorem clearRecord_bssid2 (s : State) : (clearRecord s).bssid2 = s.bssid2 := rfl
@[simp] theorem clearRecord_bssid3 (s : State) : (clearRecord s).bssid3 = s.bssid3 := rfl
@[simp] theorem clearRecord_bssid4 (s : State) : (clearRecord s).bssid4 = s.bssid4 := rfl
@[simp] theorem clearRecord_bssid5 (s : State) : (clearRecord s).bssid5 = s.bssid5 := rfl
@[simp] theorem clearRecord_measNa (s : State) : (clearRecord s).measNa = s.measNa := rfl
@[simp] theorem clearRecord_nodeId (s : State) : (clearRecord s).nodeId = s.nodeId := rfl
@[simp] theorem clearRecord_msgCnt (s : State) : (clearRecord s).msgCnt = s.msgCnt := rfl
@[simp] theorem clearRecord_plLen (s : State) : (clearRecord s).plLen = s.plLen := rfl
@[simp] theorem clearRecord_txLen (s : State) : (clearRecord s).txLen = s.txLen := rfl
@[simp] theorem clearRecord_encStatus (s : State) : (clearRecord s).encStatus = s.encStatus := rfl
@[simp] theorem clearRecord_rxLen (s : State) : (clearRecord s).rxLen = s.rxLen := rfl
@[simp] theorem clearRecord_decStatus (s : State) : (clearRecord s).decStatus = s.decStatus := rfl
@[simp] theorem clearRecord_recNodeId (s : State) : (clearRecord s).recNodeId = .invalid := rfl
@[simp] theorem clearRecord_recMsgCnt (s : State) : (clearRecord s).recMsgCnt = .invalid := rfl
@[simp] theorem clearRecord_recShape (s : State) : (clearRecord s).recShape = .invalid := rfl
@[simp] theorem clearRecord_recRssi (s : State) : (clearRecord s).recRssi = .invalid := rfl
@[simp] theorem clearRecord_recChan (s : State) : (clearRecord s).recChan = .invalid := rfl
@[simp] theorem clearRecord_recBssid0 (s : State) : (clearRecord s).recBssid0 = .invalid := rfl
@[simp] theorem clearRecord_recBssid1 (s : State) : (clearRecord s).recBssid1 = .invalid := rfl
@[simp] theorem clearRecord_recBssid2 (s : State) : (clearRecord s).recBssid2 = .invalid := rfl
@[simp] theorem clearRecord_recBssid3 (s : State) : (clearRecord s).recBssid3 = .invalid := rfl
@[simp] theorem clearRecord_recBssid4 (s : State) : (clearRecord s).recBssid4 = .invalid := rfl
@[simp] theorem clearRecord_recBssid5 (s : State) : (clearRecord s).recBssid5 = .invalid := rfl
@[simp] theorem clearRecord_recSent0 (s : State) : (clearRecord s).recSent0 = .invalid := rfl
@[simp] theorem clearRecord_recSent1 (s : State) : (clearRecord s).recSent1 = .invalid := rfl
@[simp] theorem clearRecord_recSent2 (s : State) : (clearRecord s).recSent2 = .invalid := rfl
@[simp] theorem clearRecord_plbuf (s : State) : (clearRecord s).plbuf = s.plbuf := rfl
@[simp] theorem clearRecord_txbuf (s : State) : (clearRecord s).txbuf = s.txbuf := rfl
@[simp] theorem clearRecord_rxbuf (s : State) : (clearRecord s).rxbuf = s.rxbuf := rfl
@[simp] theorem clearRecord_script (s : State) : (clearRecord s).script = s.script := rfl
@[simp] theorem clearRecord_returned (s : State) : (clearRecord s).returned = s.returned := rfl

@[simp] theorem applyReset_fault (s : State) : (applyReset s).fault = State.reset.fault := rfl
@[simp] theorem applyReset_crcAcc (s : State) : (applyReset s).crcAcc = State.reset.crcAcc := rfl
@[simp] theorem applyReset_measFound (s : State) : (applyReset s).measFound = State.reset.measFound := rfl
@[simp] theorem applyReset_rssi (s : State) : (applyReset s).rssi = State.reset.rssi := rfl
@[simp] theorem applyReset_chan (s : State) : (applyReset s).chan = State.reset.chan := rfl
@[simp] theorem applyReset_bssid0 (s : State) : (applyReset s).bssid0 = State.reset.bssid0 := rfl
@[simp] theorem applyReset_bssid1 (s : State) : (applyReset s).bssid1 = State.reset.bssid1 := rfl
@[simp] theorem applyReset_bssid2 (s : State) : (applyReset s).bssid2 = State.reset.bssid2 := rfl
@[simp] theorem applyReset_bssid3 (s : State) : (applyReset s).bssid3 = State.reset.bssid3 := rfl
@[simp] theorem applyReset_bssid4 (s : State) : (applyReset s).bssid4 = State.reset.bssid4 := rfl
@[simp] theorem applyReset_bssid5 (s : State) : (applyReset s).bssid5 = State.reset.bssid5 := rfl
@[simp] theorem applyReset_measNa (s : State) : (applyReset s).measNa = State.reset.measNa := rfl
@[simp] theorem applyReset_nodeId (s : State) : (applyReset s).nodeId = State.reset.nodeId := rfl
@[simp] theorem applyReset_msgCnt (s : State) : (applyReset s).msgCnt = State.reset.msgCnt := rfl
@[simp] theorem applyReset_plLen (s : State) : (applyReset s).plLen = State.reset.plLen := rfl
@[simp] theorem applyReset_txLen (s : State) : (applyReset s).txLen = State.reset.txLen := rfl
@[simp] theorem applyReset_encStatus (s : State) : (applyReset s).encStatus = State.reset.encStatus := rfl
@[simp] theorem applyReset_rxLen (s : State) : (applyReset s).rxLen = State.reset.rxLen := rfl
@[simp] theorem applyReset_decStatus (s : State) : (applyReset s).decStatus = State.reset.decStatus := rfl
@[simp] theorem applyReset_recNodeId (s : State) : (applyReset s).recNodeId = State.reset.recNodeId := rfl
@[simp] theorem applyReset_recMsgCnt (s : State) : (applyReset s).recMsgCnt = State.reset.recMsgCnt := rfl
@[simp] theorem applyReset_recShape (s : State) : (applyReset s).recShape = State.reset.recShape := rfl
@[simp] theorem applyReset_recRssi (s : State) : (applyReset s).recRssi = State.reset.recRssi := rfl
@[simp] theorem applyReset_recChan (s : State) : (applyReset s).recChan = State.reset.recChan := rfl
@[simp] theorem applyReset_recBssid0 (s : State) : (applyReset s).recBssid0 = State.reset.recBssid0 := rfl
@[simp] theorem applyReset_recBssid1 (s : State) : (applyReset s).recBssid1 = State.reset.recBssid1 := rfl
@[simp] theorem applyReset_recBssid2 (s : State) : (applyReset s).recBssid2 = State.reset.recBssid2 := rfl
@[simp] theorem applyReset_recBssid3 (s : State) : (applyReset s).recBssid3 = State.reset.recBssid3 := rfl
@[simp] theorem applyReset_recBssid4 (s : State) : (applyReset s).recBssid4 = State.reset.recBssid4 := rfl
@[simp] theorem applyReset_recBssid5 (s : State) : (applyReset s).recBssid5 = State.reset.recBssid5 := rfl
@[simp] theorem applyReset_recSent0 (s : State) : (applyReset s).recSent0 = State.reset.recSent0 := rfl
@[simp] theorem applyReset_recSent1 (s : State) : (applyReset s).recSent1 = State.reset.recSent1 := rfl
@[simp] theorem applyReset_recSent2 (s : State) : (applyReset s).recSent2 = State.reset.recSent2 := rfl
@[simp] theorem applyReset_plbuf (s : State) : (applyReset s).plbuf = State.reset.plbuf := rfl
@[simp] theorem applyReset_txbuf (s : State) : (applyReset s).txbuf = State.reset.txbuf := rfl
@[simp] theorem applyReset_rxbuf (s : State) : (applyReset s).rxbuf = State.reset.rxbuf := rfl
@[simp] theorem applyReset_script (s : State) : (applyReset s).script = s.script := rfl
@[simp] theorem applyReset_returned (s : State) : (applyReset s).returned = s.returned := rfl

@[simp] theorem setBuf_plbuf_fault (s : State) (m : Memory) : (s.setBuf .plbuf m).fault = s.fault := rfl
@[simp] theorem setBuf_plbuf_crcAcc (s : State) (m : Memory) : (s.setBuf .plbuf m).crcAcc = s.crcAcc := rfl
@[simp] theorem setBuf_plbuf_measFound (s : State) (m : Memory) : (s.setBuf .plbuf m).measFound = s.measFound := rfl
@[simp] theorem setBuf_plbuf_rssi (s : State) (m : Memory) : (s.setBuf .plbuf m).rssi = s.rssi := rfl
@[simp] theorem setBuf_plbuf_chan (s : State) (m : Memory) : (s.setBuf .plbuf m).chan = s.chan := rfl
@[simp] theorem setBuf_plbuf_bssid0 (s : State) (m : Memory) : (s.setBuf .plbuf m).bssid0 = s.bssid0 := rfl
@[simp] theorem setBuf_plbuf_bssid1 (s : State) (m : Memory) : (s.setBuf .plbuf m).bssid1 = s.bssid1 := rfl
@[simp] theorem setBuf_plbuf_bssid2 (s : State) (m : Memory) : (s.setBuf .plbuf m).bssid2 = s.bssid2 := rfl
@[simp] theorem setBuf_plbuf_bssid3 (s : State) (m : Memory) : (s.setBuf .plbuf m).bssid3 = s.bssid3 := rfl
@[simp] theorem setBuf_plbuf_bssid4 (s : State) (m : Memory) : (s.setBuf .plbuf m).bssid4 = s.bssid4 := rfl
@[simp] theorem setBuf_plbuf_bssid5 (s : State) (m : Memory) : (s.setBuf .plbuf m).bssid5 = s.bssid5 := rfl
@[simp] theorem setBuf_plbuf_measNa (s : State) (m : Memory) : (s.setBuf .plbuf m).measNa = s.measNa := rfl
@[simp] theorem setBuf_plbuf_nodeId (s : State) (m : Memory) : (s.setBuf .plbuf m).nodeId = s.nodeId := rfl
@[simp] theorem setBuf_plbuf_msgCnt (s : State) (m : Memory) : (s.setBuf .plbuf m).msgCnt = s.msgCnt := rfl
@[simp] theorem setBuf_plbuf_plLen (s : State) (m : Memory) : (s.setBuf .plbuf m).plLen = s.plLen := rfl
@[simp] theorem setBuf_plbuf_txLen (s : State) (m : Memory) : (s.setBuf .plbuf m).txLen = s.txLen := rfl
@[simp] theorem setBuf_plbuf_encStatus (s : State) (m : Memory) : (s.setBuf .plbuf m).encStatus = s.encStatus := rfl
@[simp] theorem setBuf_plbuf_rxLen (s : State) (m : Memory) : (s.setBuf .plbuf m).rxLen = s.rxLen := rfl
@[simp] theorem setBuf_plbuf_decStatus (s : State) (m : Memory) : (s.setBuf .plbuf m).decStatus = s.decStatus := rfl
@[simp] theorem setBuf_plbuf_recNodeId (s : State) (m : Memory) : (s.setBuf .plbuf m).recNodeId = s.recNodeId := rfl
@[simp] theorem setBuf_plbuf_recMsgCnt (s : State) (m : Memory) : (s.setBuf .plbuf m).recMsgCnt = s.recMsgCnt := rfl
@[simp] theorem setBuf_plbuf_recShape (s : State) (m : Memory) : (s.setBuf .plbuf m).recShape = s.recShape := rfl
@[simp] theorem setBuf_plbuf_recRssi (s : State) (m : Memory) : (s.setBuf .plbuf m).recRssi = s.recRssi := rfl
@[simp] theorem setBuf_plbuf_recChan (s : State) (m : Memory) : (s.setBuf .plbuf m).recChan = s.recChan := rfl
@[simp] theorem setBuf_plbuf_recBssid0 (s : State) (m : Memory) : (s.setBuf .plbuf m).recBssid0 = s.recBssid0 := rfl
@[simp] theorem setBuf_plbuf_recBssid1 (s : State) (m : Memory) : (s.setBuf .plbuf m).recBssid1 = s.recBssid1 := rfl
@[simp] theorem setBuf_plbuf_recBssid2 (s : State) (m : Memory) : (s.setBuf .plbuf m).recBssid2 = s.recBssid2 := rfl
@[simp] theorem setBuf_plbuf_recBssid3 (s : State) (m : Memory) : (s.setBuf .plbuf m).recBssid3 = s.recBssid3 := rfl
@[simp] theorem setBuf_plbuf_recBssid4 (s : State) (m : Memory) : (s.setBuf .plbuf m).recBssid4 = s.recBssid4 := rfl
@[simp] theorem setBuf_plbuf_recBssid5 (s : State) (m : Memory) : (s.setBuf .plbuf m).recBssid5 = s.recBssid5 := rfl
@[simp] theorem setBuf_plbuf_recSent0 (s : State) (m : Memory) : (s.setBuf .plbuf m).recSent0 = s.recSent0 := rfl
@[simp] theorem setBuf_plbuf_recSent1 (s : State) (m : Memory) : (s.setBuf .plbuf m).recSent1 = s.recSent1 := rfl
@[simp] theorem setBuf_plbuf_recSent2 (s : State) (m : Memory) : (s.setBuf .plbuf m).recSent2 = s.recSent2 := rfl
@[simp] theorem setBuf_plbuf_plbuf (s : State) (m : Memory) : (s.setBuf .plbuf m).plbuf = m := rfl
@[simp] theorem setBuf_plbuf_txbuf (s : State) (m : Memory) : (s.setBuf .plbuf m).txbuf = s.txbuf := rfl
@[simp] theorem setBuf_plbuf_rxbuf (s : State) (m : Memory) : (s.setBuf .plbuf m).rxbuf = s.rxbuf := rfl
@[simp] theorem setBuf_plbuf_script (s : State) (m : Memory) : (s.setBuf .plbuf m).script = s.script := rfl
@[simp] theorem setBuf_plbuf_returned (s : State) (m : Memory) : (s.setBuf .plbuf m).returned = s.returned := rfl

@[simp] theorem setBuf_txbuf_fault (s : State) (m : Memory) : (s.setBuf .txbuf m).fault = s.fault := rfl
@[simp] theorem setBuf_txbuf_crcAcc (s : State) (m : Memory) : (s.setBuf .txbuf m).crcAcc = s.crcAcc := rfl
@[simp] theorem setBuf_txbuf_measFound (s : State) (m : Memory) : (s.setBuf .txbuf m).measFound = s.measFound := rfl
@[simp] theorem setBuf_txbuf_rssi (s : State) (m : Memory) : (s.setBuf .txbuf m).rssi = s.rssi := rfl
@[simp] theorem setBuf_txbuf_chan (s : State) (m : Memory) : (s.setBuf .txbuf m).chan = s.chan := rfl
@[simp] theorem setBuf_txbuf_bssid0 (s : State) (m : Memory) : (s.setBuf .txbuf m).bssid0 = s.bssid0 := rfl
@[simp] theorem setBuf_txbuf_bssid1 (s : State) (m : Memory) : (s.setBuf .txbuf m).bssid1 = s.bssid1 := rfl
@[simp] theorem setBuf_txbuf_bssid2 (s : State) (m : Memory) : (s.setBuf .txbuf m).bssid2 = s.bssid2 := rfl
@[simp] theorem setBuf_txbuf_bssid3 (s : State) (m : Memory) : (s.setBuf .txbuf m).bssid3 = s.bssid3 := rfl
@[simp] theorem setBuf_txbuf_bssid4 (s : State) (m : Memory) : (s.setBuf .txbuf m).bssid4 = s.bssid4 := rfl
@[simp] theorem setBuf_txbuf_bssid5 (s : State) (m : Memory) : (s.setBuf .txbuf m).bssid5 = s.bssid5 := rfl
@[simp] theorem setBuf_txbuf_measNa (s : State) (m : Memory) : (s.setBuf .txbuf m).measNa = s.measNa := rfl
@[simp] theorem setBuf_txbuf_nodeId (s : State) (m : Memory) : (s.setBuf .txbuf m).nodeId = s.nodeId := rfl
@[simp] theorem setBuf_txbuf_msgCnt (s : State) (m : Memory) : (s.setBuf .txbuf m).msgCnt = s.msgCnt := rfl
@[simp] theorem setBuf_txbuf_plLen (s : State) (m : Memory) : (s.setBuf .txbuf m).plLen = s.plLen := rfl
@[simp] theorem setBuf_txbuf_txLen (s : State) (m : Memory) : (s.setBuf .txbuf m).txLen = s.txLen := rfl
@[simp] theorem setBuf_txbuf_encStatus (s : State) (m : Memory) : (s.setBuf .txbuf m).encStatus = s.encStatus := rfl
@[simp] theorem setBuf_txbuf_rxLen (s : State) (m : Memory) : (s.setBuf .txbuf m).rxLen = s.rxLen := rfl
@[simp] theorem setBuf_txbuf_decStatus (s : State) (m : Memory) : (s.setBuf .txbuf m).decStatus = s.decStatus := rfl
@[simp] theorem setBuf_txbuf_recNodeId (s : State) (m : Memory) : (s.setBuf .txbuf m).recNodeId = s.recNodeId := rfl
@[simp] theorem setBuf_txbuf_recMsgCnt (s : State) (m : Memory) : (s.setBuf .txbuf m).recMsgCnt = s.recMsgCnt := rfl
@[simp] theorem setBuf_txbuf_recShape (s : State) (m : Memory) : (s.setBuf .txbuf m).recShape = s.recShape := rfl
@[simp] theorem setBuf_txbuf_recRssi (s : State) (m : Memory) : (s.setBuf .txbuf m).recRssi = s.recRssi := rfl
@[simp] theorem setBuf_txbuf_recChan (s : State) (m : Memory) : (s.setBuf .txbuf m).recChan = s.recChan := rfl
@[simp] theorem setBuf_txbuf_recBssid0 (s : State) (m : Memory) : (s.setBuf .txbuf m).recBssid0 = s.recBssid0 := rfl
@[simp] theorem setBuf_txbuf_recBssid1 (s : State) (m : Memory) : (s.setBuf .txbuf m).recBssid1 = s.recBssid1 := rfl
@[simp] theorem setBuf_txbuf_recBssid2 (s : State) (m : Memory) : (s.setBuf .txbuf m).recBssid2 = s.recBssid2 := rfl
@[simp] theorem setBuf_txbuf_recBssid3 (s : State) (m : Memory) : (s.setBuf .txbuf m).recBssid3 = s.recBssid3 := rfl
@[simp] theorem setBuf_txbuf_recBssid4 (s : State) (m : Memory) : (s.setBuf .txbuf m).recBssid4 = s.recBssid4 := rfl
@[simp] theorem setBuf_txbuf_recBssid5 (s : State) (m : Memory) : (s.setBuf .txbuf m).recBssid5 = s.recBssid5 := rfl
@[simp] theorem setBuf_txbuf_recSent0 (s : State) (m : Memory) : (s.setBuf .txbuf m).recSent0 = s.recSent0 := rfl
@[simp] theorem setBuf_txbuf_recSent1 (s : State) (m : Memory) : (s.setBuf .txbuf m).recSent1 = s.recSent1 := rfl
@[simp] theorem setBuf_txbuf_recSent2 (s : State) (m : Memory) : (s.setBuf .txbuf m).recSent2 = s.recSent2 := rfl
@[simp] theorem setBuf_txbuf_plbuf (s : State) (m : Memory) : (s.setBuf .txbuf m).plbuf = s.plbuf := rfl
@[simp] theorem setBuf_txbuf_txbuf (s : State) (m : Memory) : (s.setBuf .txbuf m).txbuf = m := rfl
@[simp] theorem setBuf_txbuf_rxbuf (s : State) (m : Memory) : (s.setBuf .txbuf m).rxbuf = s.rxbuf := rfl
@[simp] theorem setBuf_txbuf_script (s : State) (m : Memory) : (s.setBuf .txbuf m).script = s.script := rfl
@[simp] theorem setBuf_txbuf_returned (s : State) (m : Memory) : (s.setBuf .txbuf m).returned = s.returned := rfl

@[simp] theorem setBuf_rxbuf_fault (s : State) (m : Memory) : (s.setBuf .rxbuf m).fault = s.fault := rfl
@[simp] theorem setBuf_rxbuf_crcAcc (s : State) (m : Memory) : (s.setBuf .rxbuf m).crcAcc = s.crcAcc := rfl
@[simp] theorem setBuf_rxbuf_measFound (s : State) (m : Memory) : (s.setBuf .rxbuf m).measFound = s.measFound := rfl
@[simp] theorem setBuf_rxbuf_rssi (s : State) (m : Memory) : (s.setBuf .rxbuf m).rssi = s.rssi := rfl
@[simp] theorem setBuf_rxbuf_chan (s : State) (m : Memory) : (s.setBuf .rxbuf m).chan = s.chan := rfl
@[simp] theorem setBuf_rxbuf_bssid0 (s : State) (m : Memory) : (s.setBuf .rxbuf m).bssid0 = s.bssid0 := rfl
@[simp] theorem setBuf_rxbuf_bssid1 (s : State) (m : Memory) : (s.setBuf .rxbuf m).bssid1 = s.bssid1 := rfl
@[simp] theorem setBuf_rxbuf_bssid2 (s : State) (m : Memory) : (s.setBuf .rxbuf m).bssid2 = s.bssid2 := rfl
@[simp] theorem setBuf_rxbuf_bssid3 (s : State) (m : Memory) : (s.setBuf .rxbuf m).bssid3 = s.bssid3 := rfl
@[simp] theorem setBuf_rxbuf_bssid4 (s : State) (m : Memory) : (s.setBuf .rxbuf m).bssid4 = s.bssid4 := rfl
@[simp] theorem setBuf_rxbuf_bssid5 (s : State) (m : Memory) : (s.setBuf .rxbuf m).bssid5 = s.bssid5 := rfl
@[simp] theorem setBuf_rxbuf_measNa (s : State) (m : Memory) : (s.setBuf .rxbuf m).measNa = s.measNa := rfl
@[simp] theorem setBuf_rxbuf_nodeId (s : State) (m : Memory) : (s.setBuf .rxbuf m).nodeId = s.nodeId := rfl
@[simp] theorem setBuf_rxbuf_msgCnt (s : State) (m : Memory) : (s.setBuf .rxbuf m).msgCnt = s.msgCnt := rfl
@[simp] theorem setBuf_rxbuf_plLen (s : State) (m : Memory) : (s.setBuf .rxbuf m).plLen = s.plLen := rfl
@[simp] theorem setBuf_rxbuf_txLen (s : State) (m : Memory) : (s.setBuf .rxbuf m).txLen = s.txLen := rfl
@[simp] theorem setBuf_rxbuf_encStatus (s : State) (m : Memory) : (s.setBuf .rxbuf m).encStatus = s.encStatus := rfl
@[simp] theorem setBuf_rxbuf_rxLen (s : State) (m : Memory) : (s.setBuf .rxbuf m).rxLen = s.rxLen := rfl
@[simp] theorem setBuf_rxbuf_decStatus (s : State) (m : Memory) : (s.setBuf .rxbuf m).decStatus = s.decStatus := rfl
@[simp] theorem setBuf_rxbuf_recNodeId (s : State) (m : Memory) : (s.setBuf .rxbuf m).recNodeId = s.recNodeId := rfl
@[simp] theorem setBuf_rxbuf_recMsgCnt (s : State) (m : Memory) : (s.setBuf .rxbuf m).recMsgCnt = s.recMsgCnt := rfl
@[simp] theorem setBuf_rxbuf_recShape (s : State) (m : Memory) : (s.setBuf .rxbuf m).recShape = s.recShape := rfl
@[simp] theorem setBuf_rxbuf_recRssi (s : State) (m : Memory) : (s.setBuf .rxbuf m).recRssi = s.recRssi := rfl
@[simp] theorem setBuf_rxbuf_recChan (s : State) (m : Memory) : (s.setBuf .rxbuf m).recChan = s.recChan := rfl
@[simp] theorem setBuf_rxbuf_recBssid0 (s : State) (m : Memory) : (s.setBuf .rxbuf m).recBssid0 = s.recBssid0 := rfl
@[simp] theorem setBuf_rxbuf_recBssid1 (s : State) (m : Memory) : (s.setBuf .rxbuf m).recBssid1 = s.recBssid1 := rfl
@[simp] theorem setBuf_rxbuf_recBssid2 (s : State) (m : Memory) : (s.setBuf .rxbuf m).recBssid2 = s.recBssid2 := rfl
@[simp] theorem setBuf_rxbuf_recBssid3 (s : State) (m : Memory) : (s.setBuf .rxbuf m).recBssid3 = s.recBssid3 := rfl
@[simp] theorem setBuf_rxbuf_recBssid4 (s : State) (m : Memory) : (s.setBuf .rxbuf m).recBssid4 = s.recBssid4 := rfl
@[simp] theorem setBuf_rxbuf_recBssid5 (s : State) (m : Memory) : (s.setBuf .rxbuf m).recBssid5 = s.recBssid5 := rfl
@[simp] theorem setBuf_rxbuf_recSent0 (s : State) (m : Memory) : (s.setBuf .rxbuf m).recSent0 = s.recSent0 := rfl
@[simp] theorem setBuf_rxbuf_recSent1 (s : State) (m : Memory) : (s.setBuf .rxbuf m).recSent1 = s.recSent1 := rfl
@[simp] theorem setBuf_rxbuf_recSent2 (s : State) (m : Memory) : (s.setBuf .rxbuf m).recSent2 = s.recSent2 := rfl
@[simp] theorem setBuf_rxbuf_plbuf (s : State) (m : Memory) : (s.setBuf .rxbuf m).plbuf = s.plbuf := rfl
@[simp] theorem setBuf_rxbuf_txbuf (s : State) (m : Memory) : (s.setBuf .rxbuf m).txbuf = s.txbuf := rfl
@[simp] theorem setBuf_rxbuf_rxbuf (s : State) (m : Memory) : (s.setBuf .rxbuf m).rxbuf = m := rfl
@[simp] theorem setBuf_rxbuf_script (s : State) (m : Memory) : (s.setBuf .rxbuf m).script = s.script := rfl
@[simp] theorem setBuf_rxbuf_returned (s : State) (m : Memory) : (s.setBuf .rxbuf m).returned = s.returned := rfl

@[simp] theorem putTxn_fault (s : State) (t : Txn) : (s.putTxn t).fault = s.fault := rfl
@[simp] theorem putTxn_crcAcc (s : State) (t : Txn) : (s.putTxn t).crcAcc = s.crcAcc := rfl
@[simp] theorem putTxn_measFound (s : State) (t : Txn) : (s.putTxn t).measFound = s.measFound := rfl
@[simp] theorem putTxn_rssi (s : State) (t : Txn) : (s.putTxn t).rssi = s.rssi := rfl
@[simp] theorem putTxn_chan (s : State) (t : Txn) : (s.putTxn t).chan = s.chan := rfl
@[simp] theorem putTxn_bssid0 (s : State) (t : Txn) : (s.putTxn t).bssid0 = s.bssid0 := rfl
@[simp] theorem putTxn_bssid1 (s : State) (t : Txn) : (s.putTxn t).bssid1 = s.bssid1 := rfl
@[simp] theorem putTxn_bssid2 (s : State) (t : Txn) : (s.putTxn t).bssid2 = s.bssid2 := rfl
@[simp] theorem putTxn_bssid3 (s : State) (t : Txn) : (s.putTxn t).bssid3 = s.bssid3 := rfl
@[simp] theorem putTxn_bssid4 (s : State) (t : Txn) : (s.putTxn t).bssid4 = s.bssid4 := rfl
@[simp] theorem putTxn_bssid5 (s : State) (t : Txn) : (s.putTxn t).bssid5 = s.bssid5 := rfl
@[simp] theorem putTxn_measNa (s : State) (t : Txn) : (s.putTxn t).measNa = s.measNa := rfl
@[simp] theorem putTxn_nodeId (s : State) (t : Txn) : (s.putTxn t).nodeId = s.nodeId := rfl
@[simp] theorem putTxn_msgCnt (s : State) (t : Txn) : (s.putTxn t).msgCnt = s.msgCnt := rfl
@[simp] theorem putTxn_plLen (s : State) (t : Txn) : (s.putTxn t).plLen = s.plLen := rfl
@[simp] theorem putTxn_txLen (s : State) (t : Txn) : (s.putTxn t).txLen = s.txLen := rfl
@[simp] theorem putTxn_encStatus (s : State) (t : Txn) : (s.putTxn t).encStatus = s.encStatus := rfl
@[simp] theorem putTxn_rxLen (s : State) (t : Txn) : (s.putTxn t).rxLen = s.rxLen := rfl
@[simp] theorem putTxn_decStatus (s : State) (t : Txn) : (s.putTxn t).decStatus = s.decStatus := rfl
@[simp] theorem putTxn_recNodeId (s : State) (t : Txn) : (s.putTxn t).recNodeId = s.recNodeId := rfl
@[simp] theorem putTxn_recMsgCnt (s : State) (t : Txn) : (s.putTxn t).recMsgCnt = s.recMsgCnt := rfl
@[simp] theorem putTxn_recShape (s : State) (t : Txn) : (s.putTxn t).recShape = s.recShape := rfl
@[simp] theorem putTxn_recRssi (s : State) (t : Txn) : (s.putTxn t).recRssi = s.recRssi := rfl
@[simp] theorem putTxn_recChan (s : State) (t : Txn) : (s.putTxn t).recChan = s.recChan := rfl
@[simp] theorem putTxn_recBssid0 (s : State) (t : Txn) : (s.putTxn t).recBssid0 = s.recBssid0 := rfl
@[simp] theorem putTxn_recBssid1 (s : State) (t : Txn) : (s.putTxn t).recBssid1 = s.recBssid1 := rfl
@[simp] theorem putTxn_recBssid2 (s : State) (t : Txn) : (s.putTxn t).recBssid2 = s.recBssid2 := rfl
@[simp] theorem putTxn_recBssid3 (s : State) (t : Txn) : (s.putTxn t).recBssid3 = s.recBssid3 := rfl
@[simp] theorem putTxn_recBssid4 (s : State) (t : Txn) : (s.putTxn t).recBssid4 = s.recBssid4 := rfl
@[simp] theorem putTxn_recBssid5 (s : State) (t : Txn) : (s.putTxn t).recBssid5 = s.recBssid5 := rfl
@[simp] theorem putTxn_recSent0 (s : State) (t : Txn) : (s.putTxn t).recSent0 = s.recSent0 := rfl
@[simp] theorem putTxn_recSent1 (s : State) (t : Txn) : (s.putTxn t).recSent1 = s.recSent1 := rfl
@[simp] theorem putTxn_recSent2 (s : State) (t : Txn) : (s.putTxn t).recSent2 = s.recSent2 := rfl
@[simp] theorem putTxn_plbuf (s : State) (t : Txn) : (s.putTxn t).plbuf = s.plbuf := rfl
@[simp] theorem putTxn_txbuf (s : State) (t : Txn) : (s.putTxn t).txbuf = s.txbuf := rfl
@[simp] theorem putTxn_rxbuf (s : State) (t : Txn) : (s.putTxn t).rxbuf = s.rxbuf := rfl
@[simp] theorem putTxn_script (s : State) (t : Txn) : (s.putTxn t).script = t :: s.script := rfl
@[simp] theorem putTxn_returned (s : State) (t : Txn) : (s.putTxn t).returned = s.returned := rfl

@[simp] theorem buf_plbuf (s : State) : s.buf .plbuf = s.plbuf := rfl
@[simp] theorem buf_txbuf (s : State) : s.buf .txbuf = s.txbuf := rfl
@[simp] theorem buf_rxbuf (s : State) : s.buf .rxbuf = s.rxbuf := rfl

end Sys2Proof.Machine
end

