-- ==== Sys2Proof/Laws/Memory.lean ====
section
/-!
SUPPORT. Buffers: a read after a write, and every operation keeps the canonical form.
-/

namespace Sys2Proof.Machine

@[simp] theorem Memory.read_nil (a : Nat) : Memory.read [] a = none := rfl

theorem Memory.read_write (m : Memory) (a c : Nat) (b : Byte) :
    (m.write a b).read c = if c = a then some b else m.read c := by
  induction m with
  | nil => simp only [Memory.write, Memory.read, eq_comm]
  | cons x m ih =>
    obtain ⟨k, v⟩ := x
    simp only [Memory.write]
    split_ifs <;> simp only [Memory.read, ih] <;> split_ifs <;> first | rfl | omega

@[simp] theorem Memory.read_write_same (m : Memory) (a : Nat) (b : Byte) : (m.write a b).read a = some b := by
  simp [Memory.read_write]

theorem Memory.read_write_other (m : Memory) {a c : Nat} (b : Byte) (h : c ≠ a) : (m.write a b).read c = m.read c := by
  simp [Memory.read_write, h]

/-- A read after a multi-byte write: the bytes written where they were written, everything else as before. -/
theorem Memory.read_writeBytes (m : Memory) (a c : Nat) (bs : List Byte) :
    (m.writeBytes a bs).read c = if a ≤ c ∧ c < a + bs.length then bs[c - a]? else m.read c := by
  induction bs generalizing m a with
  | nil =>
    have : ¬ (a ≤ c ∧ c < a + ([] : List Byte).length) := by simp
    rw [if_neg this]; rfl
  | cons b bs ih =>
    rw [Memory.writeBytes, ih, Memory.read_write]
    by_cases hca : c = a
    · subst hca
      simp
    · by_cases h : a ≤ c ∧ c < a + (b :: bs).length
      · rw [if_pos h, if_pos ⟨by omega, by have := h.2; simp at this; omega⟩]
        rw [show c - a = (c - (a + 1)) + 1 by omega]; rfl
      · rw [if_neg h, if_neg (by simp at h ⊢; omega), if_neg hca]

theorem Memory.read_below (m : Memory) (n c : Nat) : (m.below n).read c = if c < n then m.read c else none := by
  induction m with
  | nil => simp [Memory.below]
  | cons x m ih =>
    obtain ⟨k, v⟩ := x
    simp only [Memory.below, List.filter_cons] at ih ⊢
    split_ifs <;> simp_all only [Memory.read, decide_eq_true_eq] <;> split_ifs <;> first | rfl | omega | simp_all

theorem Memory.risesFrom_mono {lo hi : Nat} {m : Memory} (h : m.risesFrom hi = true) (hle : lo ≤ hi) :
    m.risesFrom lo = true := by
  cases m with
  | nil => rfl
  | cons x m => simp only [Memory.risesFrom, Bool.and_eq_true, decide_eq_true_eq] at h ⊢; exact ⟨by omega, h.2⟩

theorem Memory.risesFrom_write {lo a : Nat} {m : Memory} (b : Byte) (h : m.risesFrom lo = true) (ha : lo ≤ a) :
    (m.write a b).risesFrom lo = true := by
  induction m generalizing lo with
  | nil => simp [Memory.write, Memory.risesFrom, ha]
  | cons x m ih =>
    obtain ⟨k, v⟩ := x
    simp only [Memory.risesFrom, Bool.and_eq_true, decide_eq_true_eq] at h
    simp only [Memory.write]
    split_ifs with h1 h2
    · simp [Memory.risesFrom, h.2, ha]; omega
    · subst h2; simp [Memory.risesFrom, h.2, ha]
    · simp [Memory.risesFrom, h.1]; exact ih h.2 (by omega)

/-- A byte write keeps the canonical form. -/
theorem Memory.wf_write {m : Memory} (a : Nat) (b : Byte) (h : m.wf = true) : (m.write a b).wf = true :=
  Memory.risesFrom_write b h (Nat.zero_le a)

/-- A multi-byte write keeps the canonical form. -/
theorem Memory.wf_writeBytes {m : Memory} (a : Nat) (bs : List Byte) (h : m.wf = true) :
    (m.writeBytes a bs).wf = true := by
  induction bs generalizing m a with
  | nil => exact h
  | cons b bs ih => exact ih _ (Memory.wf_write a b h)

theorem Memory.risesFrom_below {lo n : Nat} {m : Memory} (h : m.risesFrom lo = true) : (m.below n).risesFrom lo = true := by
  induction m generalizing lo with
  | nil => rfl
  | cons x m ih =>
    obtain ⟨k, v⟩ := x
    simp only [Memory.risesFrom, Bool.and_eq_true, decide_eq_true_eq] at h
    simp only [Memory.below, List.filter_cons] at ih ⊢
    split_ifs
    · simp only [Memory.risesFrom, Bool.and_eq_true, decide_eq_true_eq]; exact ⟨h.1, ih h.2⟩
    · exact Memory.risesFrom_mono (ih h.2) (by omega)

/-- Invalidating a range keeps the canonical form. -/
theorem Memory.wf_below {m : Memory} (n : Nat) (h : m.wf = true) : (m.below n).wf = true := Memory.risesFrom_below h

theorem Memory.within_write {n a : Nat} {m : Memory} (b : Byte) (h : m.within n = true) (ha : a < n) :
    (m.write a b).within n = true := by
  induction m with
  | nil => simp [Memory.write, Memory.within, ha]
  | cons x m ih =>
    obtain ⟨k, v⟩ := x
    simp only [Memory.within, List.all_cons, Bool.and_eq_true, decide_eq_true_eq] at h ih
    simp only [Memory.write]
    split_ifs
    · simp [Memory.within, ha, h.1]; simpa using h.2
    · simp [Memory.within, ha]; simpa using h.2
    · simp only [Memory.within, List.all_cons, Bool.and_eq_true, decide_eq_true_eq]
      exact ⟨h.1, ih h.2⟩

/-- A multi-byte write inside a buffer stays inside it. -/
theorem Memory.within_writeBytes {n a : Nat} {m : Memory} {bs : List Byte} (h : m.within n = true)
    (ha : a + bs.length ≤ n) : (m.writeBytes a bs).within n = true := by
  induction bs generalizing m a with
  | nil => exact h
  | cons b bs ih =>
    simp only [List.length_cons] at ha
    exact ih (Memory.within_write b h (by omega)) (by omega)

/-- Invalidating a range stays inside the buffer. -/
theorem Memory.within_below {n k : Nat} {m : Memory} (h : m.within n = true) : (m.below k).within n = true := by
  simp only [Memory.within, Memory.below, List.all_eq_true, List.mem_filter] at h ⊢
  exact fun x hx => h x hx.1

/-- Writing a sequence at offset 0 and invalidating what is beyond it leaves exactly the sequence. -/
theorem holdsExactly_writeBytes_below (m : Memory) (bs : List Byte) :
    HoldsExactly ((m.writeBytes 0 bs).below bs.length) bs := by
  intro a
  rw [Memory.read_below, Memory.read_writeBytes]
  split_ifs with h1 h2
  · simp
  · exact absurd ⟨Nat.zero_le a, by omega⟩ h2
  · exact (List.getElem?_eq_none (by omega)).symm

/-- Invalidating everything leaves no byte. -/
theorem holdsExactly_below_zero (m : Memory) : HoldsExactly (m.below 0) [] := by
  intro a; simp [Memory.read_below]

theorem holdsExactly_nil : HoldsExactly [] [] := fun _ => rfl

/-- What a buffer holds after a write at an offset. -/
theorem holdsBytes_writeBytes (m : Memory) (i : Nat) (bs : List Byte) : HoldsBytes (m.writeBytes i bs) i bs := by
  intro k hk
  rw [Memory.read_writeBytes, if_pos ⟨by omega, by omega⟩]; congr 1; omega

/-- Two sequences a buffer holds exactly are equal. -/
theorem holdsExactly_unique {m : Memory} {f g : List Byte} (hf : HoldsExactly m f) (hg : HoldsExactly m g) : f = g :=
  List.ext_getElem? fun a => (hf a).symm.trans (hg a)

/-- A sequence written into an empty buffer is exactly what the buffer holds. -/
theorem holdsExactly_writeBytes_nil (bs : List Byte) : HoldsExactly (Memory.writeBytes [] 0 bs) bs := by
  intro a
  rw [Memory.read_writeBytes]
  split_ifs with h
  · simp
  · rw [Memory.read_nil]; exact (List.getElem?_eq_none (by omega)).symm

end Sys2Proof.Machine
end

