-- ==== Sys2Proof/Laws/Ops.lean ====
section
/-!
SUPPORT. One lemma per shared operation: everything it can do.
-/

namespace Sys2Proof.Machine

@[simp] theorem andThen_next {α β : Type} (a : α) (k : α → Host.Outcome β Fault Refusal) :
    andThen (.next a) k = k a := rfl

@[simp] theorem andThen_fault {α β : Type} (r : Fault) (k : α → Host.Outcome β Fault Refusal) :
    andThen (.fault r) k = .fault r := rfl

@[simp] theorem andThen_refused {α β : Type} (r : Refusal) (k : α → Host.Outcome β Fault Refusal) :
    andThen (.refused r) k = .refused r := rfl

/-- A sequence that answers a next value answered one in each part. -/
theorem andThen_eq_next {α β : Type} {x : Host.Outcome α Fault Refusal} {k : α → Host.Outcome β Fault Refusal} {b : β}
    (h : andThen x k = .next b) : ∃ a, x = .next a ∧ k a = .next b := by
  cases x with
  | next a => exact ⟨a, rfl, h⟩
  | fault r => cases h
  | refused r => cases h

theorem andThen_assoc {α β γ : Type} (x : Host.Outcome α Fault Refusal) (k : α → Host.Outcome β Fault Refusal)
    (l : β → Host.Outcome γ Fault Refusal) : andThen (andThen x k) l = andThen x fun a => andThen (k a) l := by
  cases x <;> rfl

theorem andThen_pure {α : Type} (x : Host.Outcome α Fault Refusal) : andThen x .next = x := by cases x <;> rfl

@[simp] theorem need_defined {α : Type} (loc : Loc) (v : α) : need loc (.defined v) = .next v := rfl

@[simp] theorem need_invalid {α : Type} (loc : Loc) : need loc (Marked.invalid : Marked α) = .refused (.invalidRead loc) :=
  rfl

theorem need_eq_next {α : Type} {loc : Loc} {m : Marked α} {v : α} (h : need loc m = .next v) : m = .defined v := by
  cases m with
  | defined w => cases h; rfl
  | invalid => cases h

/-- Reading bytes that are all there gives them. -/
theorem readCells_of_holds (b : Buf) (m : Memory) (i : Nat) (bs : List Byte)
    (h : ∀ k, k < bs.length → m.read (i + k) = bs[k]?) : readCells b m i bs.length = .next bs := by
  induction bs generalizing i with
  | nil => rfl
  | cons v vs ih =>
    have h0 : m.read i = some v := by simpa using h 0 (by simp)
    have ht : ∀ k, k < vs.length → m.read (i + 1 + k) = vs[k]? := fun k hk => by
      have := h (k + 1) (by simpa using hk)
      rw [show i + (k + 1) = i + 1 + k by omega] at this
      simpa using this
    simp only [List.length_cons, readCells, h0, ih (i + 1) ht, andThen_next]

/-- Reading bytes either gives what is there or is refused at a byte that is not. -/
theorem readCells_cases (b : Buf) (m : Memory) (i n : Nat) :
    (∃ bs, readCells b m i n = .next bs ∧ bs.length = n ∧ ∀ k, k < n → m.read (i + k) = bs[k]?) ∨
    (∃ k, k < n ∧ m.read (i + k) = none ∧ readCells b m i n = .refused (.invalidRead (.byte b (i + k)))) := by
  induction n generalizing i with
  | zero => exact .inl ⟨[], rfl, rfl, by simp⟩
  | succ n ih =>
    cases hm : m.read i with
    | none => exact .inr ⟨0, by omega, by simpa using hm, by simp [readCells, hm]⟩
    | some v =>
      obtain ⟨bs, h1, h2, h3⟩ | ⟨k, hk, h1, h2⟩ := ih (i + 1)
      · refine .inl ⟨v :: bs, by simp [readCells, hm, h1], by simp [h2], fun k hk => ?_⟩
        cases k with
        | zero => simpa using hm
        | succ k => rw [show i + (k + 1) = i + 1 + k by omega]; simpa using h3 k (by omega)
      · refine .inr ⟨k + 1, by omega, ?_, ?_⟩
        · rw [show i + (k + 1) = i + 1 + k by omega]; exact h1
        · simp only [readCells, hm, h2, andThen_refused]; rw [show i + (k + 1) = i + 1 + k by omega]

/-- `MemRead` of bytes a buffer holds gives them. -/
theorem memRead_of_holds {b : Buf} {i : Nat} {s : State} {bs : List Byte} (hin : i + bs.length ≤ bufSize b)
    (h : HoldsBytes (s.buf b) i bs) : memRead b i bs.length s = .next bs := by
  rw [memRead, if_pos hin]; exact readCells_of_holds b _ i bs h

/-- `MemRead` inside a buffer gives the bytes there, or is refused at an invalid one. -/
theorem memRead_cases {b : Buf} {i n : Nat} (s : State) (hin : i + n ≤ bufSize b) :
    (∃ bs, memRead b i n s = .next bs ∧ bs.length = n ∧ HoldsBytes (s.buf b) i bs) ∨
    (∃ k, k < n ∧ (s.buf b).read (i + k) = none ∧ memRead b i n s = .refused (.invalidRead (.byte b (i + k)))) := by
  rw [memRead, if_pos hin]
  obtain ⟨bs, h1, h2, h3⟩ | h := readCells_cases b (s.buf b) i n
  · exact .inl ⟨bs, h1, h2, fun k hk => h3 k (h2 ▸ hk)⟩
  · exact .inr h

/-- `MemWrite` inside a buffer answers the buffer written. -/
theorem memWrite_inside {b : Buf} {i : Nat} {bytes : List Byte} (s : State) (hin : i + bytes.length ≤ bufSize b) :
    memWrite b i bytes s = .next (s.setBuf b ((s.buf b).writeBytes i bytes)) := by rw [memWrite, if_pos hin]

/-- What `MemRead` does depends on the buffer only. -/
theorem memRead_congr {b : Buf} (i n : Nat) {s t : State} (h : s.buf b = t.buf b) : memRead b i n s = memRead b i n t := by
  simp only [memRead, h]

/-- `raise` of an encoder error, whole (R204). -/
theorem raise_encoder {e : Err} (h : e.raisedBy = .encoder) (s : State) :
    raise e s = { s with encStatus := e.code, txLen := 0#9, txbuf := s.txbuf.below 0 } := by
  cases e <;> first | rfl | cases h

/-- `raise` of a decoder error, whole (R204). -/
theorem raise_decoder {e : Err} (h : e.raisedBy = .decoder) (s : State) :
    raise e s = clearRecord { s with decStatus := e.code } := by
  cases e <;> first | rfl | cases h

end Sys2Proof.Machine
end

