-- ==== Sys2Proof/Laws/Frame.lean ====
section
/-!
SUPPORT. The frame functions: lengths, fields at their offsets, and what `parse` does (R146, R154, R167).
-/

namespace Sys2Proof.Machine

@[simp] theorem frameBody_length (n : Half) (c : Word) (p : List Byte) : (frameBody n c p).length = 7 + p.length := by
  simp [frameBody]; omega

@[simp] theorem frameOf_length (n : Half) (c : Word) (p : List Byte) : (frameOf n c p).length = 11 + p.length := by
  simp [frameOf]; omega

/-- `encode` on a payload of a legal shape is the frame (R146). -/
theorem encodeFrame_legal (n : Half) (c : Word) {p : List Byte} (h : p.length = 3 ∨ p.length = 8) :
    encodeFrame n c p = .ok (frameOf n c p) := by
  have h1 : ¬ (p.length ∉ Config.shapes) := by simp; omega
  have h2 : ¬ ((frameOf n c p).length > Config.frameMax) := by simp; omega
  rw [encodeFrame, encodeWith, if_neg h1, if_neg h2]

/-- `encode` on any other payload is `FormatError` (R147). -/
theorem encodeFrame_illegal (n : Half) (c : Word) {p : List Byte} (h : ¬ (p.length = 3 ∨ p.length = 8)) :
    encodeFrame n c p = .error .formatError := by
  have h1 : p.length ∉ Config.shapes := by simpa using h
  rw [encodeFrame, encodeWith, if_pos h1]

theorem frameOf_slice_body (n : Half) (c : Word) (p : List Byte) :
    slice (frameOf n c p) 0 (7 + p.length) = frameBody n c p := by
  simp only [slice, frameOf, List.drop_zero, Nat.sub_zero]
  exact List.take_left' (frameBody_length n c p)

theorem frameOf_slice_crc (n : Half) (c : Word) (p : List Byte) :
    slice (frameOf n c p) (7 + p.length) (11 + p.length) = be32 (crc32 (frameBody n c p)) := by
  rw [slice, frameOf, List.drop_left' (frameBody_length n c p)]
  exact List.take_of_length_le (by simp; omega)

theorem frameOf_nodeId (n : Half) (c : Word) (p : List Byte) : slice (frameOf n c p) 0 2 = be16 n := rfl

theorem frameOf_msgCnt (n : Half) (c : Word) (p : List Byte) : slice (frameOf n c p) 2 6 = be32 c := rfl

theorem frameOf_msgLen (n : Half) (c : Word) (p : List Byte) : (frameOf n c p).getD 6 0#8 = BitVec.ofNat 8 p.length := rfl

theorem frameOf_payload (n : Half) (c : Word) (p : List Byte) : slice (frameOf n c p) 7 (7 + p.length) = p := by
  simp [slice, frameOf, frameBody, be16, be32]

/-- Steps 3 and 4 pass exactly when `msg_len` is the length found and a legal shape. -/
theorem lengthAndShape_eq_none {len : Nat} {m : Byte} :
    lengthAndShape len m = none ↔ len - 11 = m.toNat ∧ (m.toNat = 3 ∨ m.toNat = 8) := by
  unfold lengthAndShape
  split_ifs with h1 h2 <;> simp at * <;> first | exact fun h => absurd h h1 | exact fun _ => h2 | exact ⟨h1, by tauto⟩

/-- Steps 3 and 4 report `LengthMismatch` before `UnknownPayloadShape` (R166). -/
theorem lengthAndShape_mismatch {len : Nat} {m : Byte} (h : len - 11 ≠ m.toNat) :
    lengthAndShape len m = some .lengthMismatch := by simp [lengthAndShape, h]

theorem lengthAndShape_unknown {len : Nat} {m : Byte} (h : len - 11 = m.toNat) (h3 : m.toNat ≠ 3) (h8 : m.toNat ≠ 8) :
    lengthAndShape len m = some .unknownPayloadShape := by simp [lengthAndShape, h, h3, h8]

theorem lengthAndShape_raisedBy {len : Nat} {m : Byte} {e : Err} (h : lengthAndShape len m = some e) :
    e.raisedBy = .decoder := by
  unfold lengthAndShape at h; split_ifs at h <;> cases h <;> rfl

/-- `parse`, step by step (R167): everything it can answer. -/
theorem parse_short {raw : List Byte} (h : raw.length < 11) : parse raw = .error .tooShort := by
  rw [parse, if_pos (by simpa using h)]

theorem parse_lengthAndShape {raw : List Byte} {e : Err} (h : 11 ≤ raw.length)
    (he : lengthAndShape raw.length (raw.getD 6 0#8) = some e) : parse raw = .error e := by
  rw [parse, if_neg (by simpa using h)]; simp only [he]

theorem parse_checkSum {raw : List Byte} (h : 11 ≤ raw.length)
    (he : lengthAndShape raw.length (raw.getD 6 0#8) = none) : parse raw = checkSum raw (raw.getD 6 0#8) := by
  rw [parse, if_neg (by simpa using h)]; simp only [he]

theorem checkSum_raisedBy {raw : List Byte} {m : Byte} {e : Err} (h : checkSum raw m = .error e) :
    e = .checksumFailed := by
  unfold checkSum at h; simp only at h; split_ifs at h; cases h; rfl

theorem checkSum_ok {raw : List Byte} {m : Byte} {v : Valid} (h : checkSum raw m = .ok v) :
    v.msgLen = m ∧ v.payload = slice raw 7 (7 + m.toNat) ∧ v.nodeId = unbe16 (slice raw 0 2) ∧
      v.msgCnt = unbe32 (slice raw 2 6) ∧
      crc32 (slice raw 0 (7 + m.toNat)) = unbe32 (slice raw (7 + m.toNat) (11 + m.toNat)) := by
  unfold checkSum at h; simp only at h; split_ifs at h with hc; cases h; exact ⟨rfl, rfl, rfl, rfl, by simpa using hc⟩

/-- Every error of `parse` is a decoder error (R201). -/
theorem parse_error_raisedBy {raw : List Byte} {e : Err} (h : parse raw = .error e) : e.raisedBy = .decoder := by
  by_cases hl : raw.length < 11
  · rw [parse_short hl] at h; cases h; rfl
  · cases hs : lengthAndShape raw.length (raw.getD 6 0#8) with
    | some e' => rw [parse_lengthAndShape (by omega) hs] at h; cases h; exact lengthAndShape_raisedBy hs
    | none => rw [parse_checkSum (by omega) hs] at h; rw [checkSum_raisedBy h]; rfl

/-- What an accepted byte sequence is (R167). -/
theorem parse_ok {raw : List Byte} {v : Valid} (h : parse raw = .ok v) :
    11 ≤ raw.length ∧ lengthAndShape raw.length (raw.getD 6 0#8) = none ∧ checkSum raw (raw.getD 6 0#8) = .ok v := by
  by_cases hl : raw.length < 11
  · rw [parse_short hl] at h; cases h
  · cases hs : lengthAndShape raw.length (raw.getD 6 0#8) with
    | some e' => rw [parse_lengthAndShape (by omega) hs] at h; cases h
    | none => exact ⟨by omega, rfl, by rw [parse_checkSum (by omega) hs] at h; exact h⟩

theorem slice_length (s : List Byte) (i j : Nat) : (slice s i j).length = min (j - i) (s.length - i) := by
  simp [slice]

/-- The payload of a valid frame has the length its `msg_len` says. -/
theorem parse_ok_payload_length {raw : List Byte} {v : Valid} (h : parse raw = .ok v) :
    v.payload.length = v.msgLen.toNat ∧ (v.msgLen.toNat = 3 ∨ v.msgLen.toNat = 8) := by
  obtain ⟨h1, h2, h3⟩ := parse_ok h
  obtain ⟨hm, hp, -⟩ := checkSum_ok h3
  rw [lengthAndShape_eq_none] at h2
  rw [hm, hp, slice_length]
  exact ⟨by omega, h2.2⟩

/-- `demux` is defined on a payload of the length and shape it is told, and its bytes are the payload (R180, R187). -/
theorem demux_defined {p : List Byte} (h : p.length = 3 ∨ p.length = 8) :
    ∃ body, demux p.length p = some body ∧ body.bytes = p := by
  rcases h with h | h
  · match p, h with
    | [x, y, z], _ => exact ⟨.absent x y z, rfl, rfl⟩
  · match p, h with
    | [r, c, a0, a1, a2, a3, a4, a5], _ =>
      exact ⟨.present (sint8 r) c ⟨a0, a1, a2, a3, a4, a5⟩, rfl, by simp [Body.bytes, payloadPresent, addressBytes]⟩

theorem decodeRaw_error {raw : List Byte} {e : Err} (h : parse raw = .error e) : decodeRaw raw = .error e := by
  rw [decodeRaw, h]

/-- An accepted byte sequence gives a record (R167, R183). -/
theorem decodeRaw_of_parse_ok {raw : List Byte} {v : Valid} (h : parse raw = .ok v) :
    ∃ body, demux v.msgLen.toNat v.payload = some body ∧ body.bytes = v.payload ∧
      decodeRaw raw = .ok { nodeId := v.nodeId, msgCnt := v.msgCnt, body := body } := by
  obtain ⟨hl, hs⟩ := parse_ok_payload_length h
  obtain ⟨body, h1, h2⟩ := demux_defined (p := v.payload) (by omega)
  rw [hl] at h1
  exact ⟨body, h1, h2, by rw [decodeRaw, h]; simp only [h1]⟩

/-- `parse` of a frame `encode` built (R171). -/
theorem parse_frameOf (n : Half) (c : Word) {p : List Byte} (h : p.length = 3 ∨ p.length = 8) :
    parse (frameOf n c p) = .ok { nodeId := n, msgCnt := c, msgLen := BitVec.ofNat 8 p.length, payload := p } := by
  have hm : (BitVec.ofNat 8 p.length).toNat = p.length := by rw [BitVec.toNat_ofNat]; omega
  have hs : lengthAndShape (frameOf n c p).length ((frameOf n c p).getD 6 0#8) = none := by
    rw [lengthAndShape_eq_none, frameOf_msgLen, hm, frameOf_length]; exact ⟨by omega, h⟩
  rw [parse_checkSum (by rw [frameOf_length]; omega) hs, frameOf_msgLen, checkSum]
  simp only [hm]
  rw [frameOf_slice_body, frameOf_slice_crc, unbe32_be32, if_neg (by simp), frameOf_nodeId, frameOf_msgCnt, unbe16_be16,
    unbe32_be32, frameOf_payload]

/-- The writes of an accepted frame hold its record (R184). -/
theorem putRecord_holdsRecord {v : Valid} {body : Body} (s : State) (h : demux v.msgLen.toNat v.payload = some body) :
    HoldsRecord (putRecord v s) { nodeId := v.nodeId, msgCnt := v.msgCnt, body := body } := by
  unfold demux at h
  split at h
  · rename_i r c a0 a1 a2 a3 a4 a5 hp
    split_ifs at h with h8
    cases h
    rw [putRecord, hp, writePayloadPart, if_pos h8]
    simp [HoldsRecord, HoldsBody]
  · rename_i x y z hp
    split_ifs at h with h3
    cases h
    rw [putRecord, hp, writePayloadPart, if_neg (by simp at h3 ⊢; omega)]
    simp [HoldsRecord, HoldsBody]
  · cases h

theorem putRecord_decStatus (v : Valid) (s : State) : (putRecord v s).decStatus = statusOk := by
  unfold putRecord writePayloadPart; split_ifs <;> rfl

theorem putRecord_onlyDecoder (v : Valid) (s : State) : OnlyDecoderChanged s (putRecord v s) := by
  unfold putRecord writePayloadPart OnlyDecoderChanged; split_ifs <;> rfl

theorem clearRecord_noRecord (s : State) : NoRecord (clearRecord s) := by simp [NoRecord]

theorem raise_onlyDecoder {e : Err} (h : e.raisedBy = .decoder) (s : State) : OnlyDecoderChanged s (raise e s) := by
  rw [raise_decoder h]; rfl

theorem raise_onlyEncoder {e : Err} (h : e.raisedBy = .encoder) (s : State) : OnlyEncoderChanged s (raise e s) := by
  rw [raise_encoder h]; rfl

/-- A frame `encode` builds is legal (R90). -/
theorem legalFrame_frameOf (n : Half) (c : Word) {p : List Byte} (h : p.length = 3 ∨ p.length = 8) :
    LegalFrame (frameOf n c p) := by
  have hl := frameOf_length n c p
  refine ⟨by omega, ?_, ?_⟩
  · rw [frameOf_msgLen, hl, BitVec.toNat_ofNat]; omega
  · rw [hl, show 11 + p.length - 4 = 7 + p.length by omega, frameOf_slice_crc, frameOf_slice_body]

theorem byte_eq_of_toNat {b : Byte} {n : Nat} (h : b.toNat = n) : b = BitVec.ofNat 8 n := by subst h; simp

/-- Every legal frame is one `encode` builds (R90). -/
theorem legalFrame_eq_frameOf {f : List Byte} (h : LegalFrame f) :
    ∃ n c p, (p.length = 3 ∨ p.length = 8) ∧ f = frameOf n c p := by
  obtain ⟨h1 | h1, h2, h3⟩ := h
  · match f, h1 with
    | [n1, n0, c3, c2, c1, c0, m, x, y, z, k3, k2, k1, k0], _ =>
      simp [slice] at h2 h3
      refine ⟨unbe16 [n1, n0], unbe32 [c3, c2, c1, c0], [x, y, z], .inl rfl, ?_⟩
      rw [frameOf, show frameBody (unbe16 [n1, n0]) (unbe32 [c3, c2, c1, c0]) [x, y, z] =
        [n1, n0, c3, c2, c1, c0, m, x, y, z] by simp [frameBody, byte_eq_of_toNat h2], ← h3]
      rfl
  · match f, h1 with
    | [n1, n0, c3, c2, c1, c0, m, r, g, a0, a1, a2, a3, a4, a5, k3, k2, k1, k0], _ =>
      simp [slice] at h2 h3
      refine ⟨unbe16 [n1, n0], unbe32 [c3, c2, c1, c0], [r, g, a0, a1, a2, a3, a4, a5], .inr rfl, ?_⟩
      rw [frameOf, show frameBody (unbe16 [n1, n0]) (unbe32 [c3, c2, c1, c0]) [r, g, a0, a1, a2, a3, a4, a5] =
        [n1, n0, c3, c2, c1, c0, m, r, g, a0, a1, a2, a3, a4, a5] by simp [frameBody, byte_eq_of_toNat h2], ← h3]
      rfl

end Sys2Proof.Machine
end

