-- ==== Sys2Proof/Laws/Exec.lean ====
section
/-!
SUPPORT. One lemma per command: everything it can do.
-/

namespace Sys2Proof.Machine

/-- The state after a payload has been stored (R136, R137). -/
def payloadStored (p : List Byte) (s : State) : State :=
  { s with plbuf := s.plbuf.writeBytes 0 p, plLen := BitVec.ofNat 8 p.length }

/-- The state after a frame has been put in `TXBUF` (R152). -/
def framePut (f : List Byte) (s : State) : State :=
  { s with
    txbuf := (s.txbuf.writeBytes 0 f).below f.length
    txLen := BitVec.ofNat 9 f.length, encStatus := statusOk }

/-- The payload commands' write: always completes for a payload of at most 255 bytes. -/
theorem storePayload_eq {p : List Byte} (s : State) (h : p.length ≤ 255) :
    storePayload p s = .next (payloadStored p s) := by
  rw [storePayload, memWrite_inside s (by simpa [bufSize] using h)]; rfl

/-- The operands of `PL_PRESENT`: eight bytes, or a refused read. -/
theorem presentOperands_cases (s : State) :
    (∃ p, presentOperands s = .next p ∧ p.length = 8) ∨ ∃ loc, presentOperands s = .refused (.invalidRead loc) := by
  unfold presentOperands
  cases s.rssi <;> cases s.chan <;> cases s.bssid0 <;> cases s.bssid1 <;> cases s.bssid2 <;> cases s.bssid3 <;>
    cases s.bssid4 <;> cases s.bssid5 <;> simp

theorem buildPresent_cases (s : State) :
    (∃ p, p.length = 8 ∧
      buildPresent s = .next (payloadStored p s)) ∨
    ∃ loc, buildPresent s = .refused (.invalidRead loc) := by
  obtain ⟨p, h, hl⟩ | ⟨loc, h⟩ := presentOperands_cases s
  · exact .inl ⟨p, hl, by rw [buildPresent, h, andThen_next, storePayload_eq s (by omega)]⟩
  · exact .inr ⟨loc, by rw [buildPresent, h]; rfl⟩

theorem buildAbsent_cases (s : State) :
    (∃ p, p.length = 3 ∧
      buildAbsent s = .next (payloadStored p s)) ∨
    ∃ loc, buildAbsent s = .refused (.invalidRead loc) := by
  cases h : s.measNa with
  | defined na =>
    refine .inl ⟨[na, na, na], rfl, ?_⟩
    rw [buildAbsent, absentOperands, h]
    exact storePayload_eq (p := [na, na, na]) s (by simp)
  | invalid => exact .inr ⟨.reg .measNa, by rw [buildAbsent, absentOperands, h]; rfl⟩

theorem execPlBuild_cases (s : State) :
    (∃ p, (p.length = 8 ∨ p.length = 3) ∧
      execPlBuild s = .next (payloadStored p s)) ∨
    ∃ loc, execPlBuild s = .refused (.invalidRead loc) := by
  cases hf : s.measFound with
  | invalid => exact .inr ⟨_, by rw [execPlBuild, hf]; rfl⟩
  | defined f =>
    have hunf : execPlBuild s = if f = 1#1 then buildPresent s else buildAbsent s := by rw [execPlBuild, hf]; rfl
    rw [hunf]
    split_ifs
    · obtain ⟨p, hl, h⟩ | h := buildPresent_cases s
      · exact .inl ⟨p, .inl hl, h⟩
      · exact .inr h
    · obtain ⟨p, hl, h⟩ | h := buildAbsent_cases s
      · exact .inl ⟨p, .inr hl, h⟩
      · exact .inr h

/-- The writes of a successful `ENCODE` (R152). -/
theorem putFrame_eq {f : List Byte} (s : State) (h : f.length ≤ 256) :
    putFrame f s = .next (framePut f s) := by
  rw [putFrame, memWrite_inside s (by simpa [bufSize] using h)]; rfl

/-- `ENCODE` with an illegal length (R153). -/
theorem execEncode_illegal {s : State} (h : ¬ (s.plLen.toNat = 3 ∨ s.plLen.toNat = 8)) :
    execEncode s = .next (raise .formatError s) := by rw [execEncode, if_pos (by simpa using h)]

/-- `ENCODE` with a legal length and its inputs there (R152). -/
theorem execEncode_legal {s : State} {n : Half} {c : Word} {p : List Byte} (h : p.length = 3 ∨ p.length = 8)
    (hl : s.plLen.toNat = p.length) (hp : HoldsBytes s.plbuf 0 p) (hn : s.nodeId = .defined n)
    (hc : s.msgCnt = .defined c) :
    execEncode s = .next (framePut (frameOf n c p) s) := by
  have hmem : memRead .plbuf 0 s.plLen.toNat s = .next p := by
    rw [hl]; exact memRead_of_holds (by simp [bufSize]; omega) hp
  rw [execEncode, if_neg (by simp [hl]; omega), hmem, hn, hc]
  simp only [andThen_next, need_defined, encodeFrame_legal n c h]
  exact putFrame_eq (f := frameOf n c p) s (by rw [frameOf_length]; omega)

/-- Everything `ENCODE` can do. -/
theorem execEncode_cases (s : State) :
    (¬ (s.plLen.toNat = 3 ∨ s.plLen.toNat = 8) ∧ execEncode s = .next (raise .formatError s)) ∨
    (∃ n c p, (p.length = 3 ∨ p.length = 8) ∧ s.plLen.toNat = p.length ∧ HoldsBytes s.plbuf 0 p ∧
      s.nodeId = .defined n ∧ s.msgCnt = .defined c ∧
      execEncode s = .next (framePut (frameOf n c p) s)) ∨
    ((s.plLen.toNat = 3 ∨ s.plLen.toNat = 8) ∧
      ((∃ k, k < s.plLen.toNat ∧ s.plbuf.read k = none) ∨ s.nodeId = .invalid ∨ s.msgCnt = .invalid) ∧
      ∃ loc, execEncode s = .refused (.invalidRead loc)) := by
  by_cases h : s.plLen.toNat = 3 ∨ s.plLen.toNat = 8
  swap
  · exact .inl ⟨h, execEncode_illegal h⟩
  refine .inr ?_
  have hunf : execEncode s = andThen (memRead .plbuf 0 s.plLen.toNat s) fun p =>
      andThen (need (.reg .nodeId) s.nodeId) fun nodeId =>
      andThen (need (.reg .msgCnt) s.msgCnt) fun msgCnt =>
        match encodeFrame nodeId msgCnt p with
        | .error e => .next (raise e s)
        | .ok frame => putFrame frame s := if_neg (c := s.plLen.toNat ∉ Config.shapes) (by simp; omega)
  obtain ⟨p, h1, h2, h3⟩ | ⟨k, hk, h1, h2⟩ :=
    memRead_cases (b := .plbuf) (i := 0) (n := s.plLen.toNat) s (by simp [bufSize]; omega)
  · cases hn : s.nodeId with
    | invalid => exact .inr ⟨h, .inr (.inl rfl), _, by rw [hunf, h1, hn]; rfl⟩
    | defined n =>
      cases hc : s.msgCnt with
      | invalid => exact .inr ⟨h, .inr (.inr rfl), _, by rw [hunf, h1, hn, hc]; rfl⟩
      | defined c =>
        exact .inl ⟨n, c, p, by omega, h2.symm, h3, rfl, rfl, execEncode_legal (by omega) h2.symm h3 hn hc⟩
  · exact .inr ⟨h, .inl ⟨k, hk, by simpa using h1⟩, _, by rw [hunf, h2]; rfl⟩

/-- `DECODE` when `RX_LEN` is below 11 (R205). -/
theorem execDecode_short {s : State} (h : s.rxLen.toNat < 11) : execDecode s = .next (raise .tooShort s) := by
  rw [execDecode, if_pos (by simpa using h)]

/-- `DECODE` when step 3 or step 4 fails on a defined header (R206, R207). -/
theorem execDecode_header {s : State} {header : List Byte} {e : Err} (h : 11 ≤ s.rxLen.toNat)
    (hl : header.length = 7) (hh : HoldsBytes s.rxbuf 0 header)
    (he : lengthAndShape s.rxLen.toNat (header.getD 6 0#8) = some e) : execDecode s = .next (raise e s) := by
  have hmem : memRead .rxbuf 0 Config.hdrLen s = .next header := by
    rw [show Config.hdrLen = header.length from hl.symm]
    exact memRead_of_holds (by simp [bufSize]; omega) hh
  rw [execDecode, if_neg (by simpa using h), hmem]
  simp only [andThen_next, he]

theorem holdsBytes_take {m : Memory} {i n : Nat} {bs : List Byte} (h : HoldsBytes m i bs) :
    HoldsBytes m i (bs.take n) := by
  intro k hk
  rw [List.length_take] at hk
  rw [h k (by omega), List.getElem?_take, if_pos (by omega)]

/-- `DECODE` on defined bytes is `parse` of them (R168). -/
theorem execDecode_of_holds {s : State} {raw : List Byte} (hl : s.rxLen.toNat = raw.length)
    (hr : HoldsBytes s.rxbuf 0 raw) :
    execDecode s = .next (match parse raw with | .error e => raise e s | .ok v => putRecord v s) := by
  by_cases h : raw.length < 11
  · rw [execDecode_short (by omega), parse_short h]
  have hhead : (raw.take 7).getD 6 0#8 = raw.getD 6 0#8 := by
    simp [List.getD_eq_getElem?_getD]
  have hlen : (raw.take 7).length = 7 := by rw [List.length_take]; omega
  cases hs : lengthAndShape raw.length (raw.getD 6 0#8) with
  | some e =>
    rw [parse_lengthAndShape (by omega) hs]
    exact execDecode_header (header := raw.take 7) (by omega) hlen (holdsBytes_take hr) (by rw [hl, hhead]; exact hs)
  | none =>
    have hhdr : memRead .rxbuf 0 Config.hdrLen s = .next (raw.take 7) := by
      rw [show Config.hdrLen = (raw.take 7).length from hlen.symm]
      exact memRead_of_holds (by simp [bufSize]) (holdsBytes_take hr)
    have hsz := lengthAndShape_eq_none.1 hs
    have hraw : memRead .rxbuf 0 s.rxLen.toNat s = .next raw := by
      rw [hl]; exact memRead_of_holds (by simp [bufSize]; omega) hr
    rw [execDecode, if_neg (by simp; omega), hhdr]
    simp only [andThen_next, hhead, hl ▸ hs, hraw]
    cases parse raw <;> rfl

/-- Everything `DECODE` can do. -/
theorem execDecode_cases (s : State) :
    (∃ e : Err, e.raisedBy = .decoder ∧ execDecode s = .next (raise e s)) ∨
    (∃ raw v, s.rxLen.toNat = raw.length ∧ HoldsBytes s.rxbuf 0 raw ∧ parse raw = .ok v ∧
      execDecode s = .next (putRecord v s)) ∨
    (∃ k, k < s.rxLen.toNat ∧ s.rxbuf.read k = none ∧ execDecode s = .refused (.invalidRead (.byte .rxbuf k))) := by
  by_cases h : s.rxLen.toNat < 11
  · exact .inl ⟨.tooShort, rfl, execDecode_short h⟩
  obtain ⟨hd, h1, h2, h3⟩ | ⟨k, hk, h1, h2⟩ :=
    memRead_cases (b := .rxbuf) (i := 0) (n := Config.hdrLen) s (by simp [bufSize])
  swap
  · refine .inr (.inr ⟨k, by simp at hk; omega, by simpa using h1, ?_⟩)
    rw [execDecode, if_neg (by simpa using h), h2]; simp
  cases hs : lengthAndShape s.rxLen.toNat (hd.getD 6 0#8) with
  | some e => exact .inl ⟨e, lengthAndShape_raisedBy hs, execDecode_header (by omega) (by simpa using h2) h3 hs⟩
  | none =>
    have hsz := lengthAndShape_eq_none.1 hs
    obtain ⟨raw, r1, r2, r3⟩ | ⟨k, hk, r1, r2⟩ :=
      memRead_cases (b := .rxbuf) (i := 0) (n := s.rxLen.toNat) s (by simp [bufSize]; omega)
    · rw [execDecode_of_holds r2.symm r3]
      cases hp : parse raw with
      | error e => exact .inl ⟨e, parse_error_raisedBy hp, rfl⟩
      | ok v => exact .inr (.inl ⟨raw, v, r2.symm, r3, hp, rfl⟩)
    · refine .inr (.inr ⟨k, hk, by simpa using r1, ?_⟩)
      rw [execDecode, if_neg (by simpa using h), h1]
      simp only [andThen_next, hs, r2]; simp

/-- The state after a received byte sequence has been loaded (R76, R102). -/
def loaded (raw : List Byte) (s : State) : State :=
  { s with rxbuf := s.rxbuf.writeBytes 0 raw, rxLen := BitVec.ofNat 9 raw.length }

theorem loadRx_eq {raw : List Byte} (s : State) (h : raw.length ≤ 256) : loadRx raw s = .next (loaded raw s) := by
  rw [loadRx, memWrite_inside s (by simpa [bufSize] using h), andThen_next, storeRxLen, if_pos (by simpa using h)]; rfl

theorem loaded_rxLen {raw : List Byte} (s : State) (h : raw.length ≤ 256) :
    (loaded raw s).rxLen.toNat = raw.length := by
  simp only [loaded, BitVec.toNat_ofNat]; omega

theorem loaded_holds (raw : List Byte) (s : State) : HoldsBytes (loaded raw s).rxbuf 0 raw :=
  holdsBytes_writeBytes _ _ _

/-- The hand-off of at most 256 bytes always completes: it is `parse` of them (R76, R77). -/
theorem receiveRaw_eq {raw : List Byte} (s : State) (h : raw.length ≤ 256) :
    receiveRaw raw s =
      .next (match parse raw with | .error e => raise e (loaded raw s) | .ok v => putRecord v (loaded raw s)) := by
  rw [receiveRaw, if_pos (by simpa using h), loadRx_eq s h, andThen_next,
    execDecode_of_holds (loaded_rxLen s h) (loaded_holds raw s)]

@[simp] theorem absentBytes_length (n : Half) (c : Word) (x y z : Byte) (k : Word) :
    (absentBytes n c x y z k).length = 14 := rfl

@[simp] theorem presentBytes_length (n : Half) (c : Word) (r h : Byte) (a : Address) (k : Word) :
    (presentBytes n c r h a k).length = 19 := rfl

/-- A frame instruction is the hand-off of its bytes (log entry 3). -/
theorem exec_frameAbsent (n : Half) (c : Word) (x y z : Byte) (k : Word) (s : State) :
    exec (.frameAbsent n c x y z k) s = receiveRaw (absentBytes n c x y z k) s := rfl

theorem exec_framePresent (n : Half) (c : Word) (r h : Byte) (a : Address) (k : Word) (s : State) :
    exec (.framePresent n c r h a k) s = receiveRaw (presentBytes n c r h a k) s := rfl

/-- A byte sequence that decodes to a frame is handed over like any other. -/
theorem receiveLine_eq (raw : List Byte) (s : State) : receiveLine raw s = receiveRaw raw s := by
  unfold receiveLine
  split
  · rename_i i h
    simp only [decode, decodeFrameBytes] at h
    split at h
    · split_ifs at h with hm
      cases h
      simp only [exec, execFrameAbsent, absentBytes, absentBody, be16_unbe16, be32_unbe32, hm]; rfl
    · split_ifs at h with hm
      cases h
      simp only [exec, execFramePresent, presentBytes, presentBody, be16_unbe16, be32_unbe32, hm]; rfl
    · cases h
  · rfl

end Sys2Proof.Machine
end

