-- ==== Sys2Proof/Laws/PerInstr.lean ====
section
/-!
SUPPORT. Statements made of every instruction, one lemma per constructor.
-/

namespace Sys2Proof.Laws.CodeLayout

open Sys2Proof.Machine

/-- The layout of an instruction's code: a command is one word whose fields are an opcode of R92 and an immediate that
only `CRC_BYTE` may have non-zero; a frame is 14 bytes with `msg_len` 3 or 19 bytes with `msg_len` 8 (R87, R92). -/
def Statement (i : Instr) : Prop :=
  (∃ w, encode i = .cmd w ∧ (opcodeOf w = 0x02#8 ∨ imm8Of w = 0#8 ∧ plainCommand (opcodeOf w) = some i)) ∨
  (∃ f, encode i = .frame f ∧ (f.length = 14 ∧ f[6]? = some 3#8 ∨ f.length = 19 ∧ f[6]? = some 8#8))

theorem plain {i : Instr} {op : Byte} (h : encode i = .cmd (commandWord 0#8 op)) (hp : plainCommand op = some i) :
    Statement i :=
  .inl ⟨_, h, .inr ⟨imm8Of_commandWord _ _, by rw [opcodeOf_commandWord]; exact hp⟩⟩

theorem nop : Statement .nop := plain rfl rfl

theorem crcInit : Statement .crcInit := plain rfl rfl

theorem crcByte (imm8 : Byte) : Statement (.crcByte imm8) := .inl ⟨_, rfl, .inl (opcodeOf_commandWord _ _)⟩

theorem plPresent : Statement .plPresent := plain rfl rfl

theorem plAbsent : Statement .plAbsent := plain rfl rfl

theorem plBuild : Statement .plBuild := plain rfl rfl

theorem encode : Statement .encode := plain rfl rfl

theorem decode : Statement .decode := plain rfl rfl

theorem frameAbsent (nodeId : Half) (msgCnt : Word) (sent0 sent1 sent2 : Byte) (crc : Word) :
    Statement (.frameAbsent nodeId msgCnt sent0 sent1 sent2 crc) := .inr ⟨_, rfl, .inl ⟨rfl, rfl⟩⟩

theorem framePresent (nodeId : Half) (msgCnt : Word) (rssi chan : Byte) (addr : Address) (crc : Word) :
    Statement (.framePresent nodeId msgCnt rssi chan addr crc) := .inr ⟨_, rfl, .inr ⟨rfl, rfl⟩⟩

end Sys2Proof.Laws.CodeLayout
end

