-- ==== Sys2Proof/Laws/Step.lean ====
section
/-!
SUPPORT. Everything an instruction, a transaction and a step can do; what a transaction does is independent of the
script that follows it.
-/

namespace Sys2Proof.Machine

/-- Everything a step of one instruction can do when it answers a next state. -/
inductive Effect (s : State) : State → Prop where
  | same : Effect s s
  | acc (a : Word) : Effect s { s with crcAcc := a }
  | payload (p : List Byte) (h : p.length = 3 ∨ p.length = 8) : Effect s (payloadStored p s)
  | noFrame : Effect s (raise .formatError s)
  | frame (n : Half) (c : Word) (p : List Byte) (h : p.length = 3 ∨ p.length = 8) : Effect s (framePut (frameOf n c p) s)
  | noRecord (e : Err) (h : e.raisedBy = .decoder) : Effect s (raise e s)
  | record (raw : List Byte) (v : Valid) (h : parse raw = .ok v) : Effect s (putRecord v s)

theorem decode_effect {s t : State} (h : execDecode s = .next t) :
    (∃ e : Err, e.raisedBy = .decoder ∧ t = raise e s) ∨ ∃ raw v, parse raw = .ok v ∧ t = putRecord v s := by
  obtain ⟨e, he, h1⟩ | ⟨raw, v, -, -, hv, h1⟩ | ⟨k, -, -, h1⟩ := execDecode_cases s <;> rw [h1] at h <;> cases h
  · exact .inl ⟨e, he, rfl⟩
  · exact .inr ⟨raw, v, hv, rfl⟩

/-- The hand-off of a received sequence: load it, then one of `DECODE`'s two effects. -/
theorem receiveRaw_effect {raw : List Byte} {s t : State} (h : receiveRaw raw s = .next t) :
    raw.length ≤ 256 ∧
      ((∃ e : Err, e.raisedBy = .decoder ∧ t = raise e (loaded raw s)) ∨
        ∃ v, parse raw = .ok v ∧ t = putRecord v (loaded raw s)) := by
  by_cases hl : raw.length ≤ 256
  · rw [receiveRaw_eq s hl] at h
    cases hp : parse raw with
    | error e => rw [hp] at h; cases h; exact ⟨hl, .inl ⟨e, parse_error_raisedBy hp, rfl⟩⟩
    | ok v => rw [hp] at h; cases h; exact ⟨hl, .inr ⟨v, rfl, rfl⟩⟩
  · rw [receiveRaw, if_neg (by simpa using hl)] at h; cases h

/-- Everything an instruction can do when it completes: one of the effects above, on the state itself or, for a frame, on
the state with the frame loaded. -/
theorem exec_effect {i : Instr} {s t : State} (h : exec i s = .next t) :
    Effect s t ∨ ∃ bytes, encode i = .frame bytes ∧ bytes.length ≤ 256 ∧ Effect (loaded bytes s) t := by
  cases i with
  | nop => cases h; exact .inl .same
  | crcInit => cases h; exact .inl (.acc _)
  | crcByte b => cases h; exact .inl (.acc _)
  | plPresent =>
    obtain ⟨p, hp, h1⟩ | ⟨loc, h1⟩ := buildPresent_cases s <;> simp only [exec, execPlPresent, h1] at h <;> cases h
    exact .inl (.payload p (.inr hp))
  | plAbsent =>
    obtain ⟨p, hp, h1⟩ | ⟨loc, h1⟩ := buildAbsent_cases s <;> simp only [exec, execPlAbsent, h1] at h <;> cases h
    exact .inl (.payload p (.inl hp))
  | plBuild =>
    obtain ⟨p, hp, h1⟩ | ⟨loc, h1⟩ := execPlBuild_cases s <;> simp only [exec, h1] at h <;> cases h
    exact .inl (.payload p hp.symm)
  | encode =>
    obtain ⟨-, h1⟩ | ⟨n, c, p, hp, -, -, -, -, h1⟩ | ⟨-, -, loc, h1⟩ := execEncode_cases s <;>
      simp only [exec, h1] at h <;> cases h
    · exact .inl .noFrame
    · exact .inl (.frame n c p hp)
  | decode =>
    obtain ⟨e, he, rfl⟩ | ⟨raw, v, hv, rfl⟩ := decode_effect h
    · exact .inl (.noRecord e he)
    · exact .inl (.record raw v hv)
  | frameAbsent n c x y z k =>
    rw [exec_frameAbsent] at h
    obtain ⟨hl, ⟨e, he, rfl⟩ | ⟨v, hv, rfl⟩⟩ := receiveRaw_effect h
    · exact .inr ⟨_, rfl, hl, .noRecord e he⟩
    · exact .inr ⟨_, rfl, hl, .record _ v hv⟩
  | framePresent n c r g a k =>
    rw [exec_framePresent] at h
    obtain ⟨hl, ⟨e, he, rfl⟩ | ⟨v, hv, rfl⟩⟩ := receiveRaw_effect h
    · exact .inr ⟨_, rfl, hl, .noRecord e he⟩
    · exact .inr ⟨_, rfl, hl, .record _ v hv⟩

/-- An instruction that stops was refused at the read of an invalid location. -/
theorem exec_stops {i : Instr} {s : State} (h : ∀ t, exec i s ≠ .next t) : ∃ loc, exec i s = .refused (.invalidRead loc) := by
  cases i with
  | nop => exact absurd rfl (h _)
  | crcInit => exact absurd rfl (h _)
  | crcByte b => exact absurd rfl (h _)
  | plPresent =>
    obtain ⟨p, -, h1⟩ | h1 := buildPresent_cases s
    · exact absurd h1 (h _)
    · exact h1
  | plAbsent =>
    obtain ⟨p, -, h1⟩ | h1 := buildAbsent_cases s
    · exact absurd h1 (h _)
    · exact h1
  | plBuild =>
    obtain ⟨p, -, h1⟩ | h1 := execPlBuild_cases s
    · exact absurd h1 (h _)
    · exact h1
  | encode =>
    obtain ⟨-, h1⟩ | ⟨n, c, p, -, -, -, -, -, h1⟩ | ⟨-, -, h1⟩ := execEncode_cases s
    · exact absurd h1 (h _)
    · exact absurd h1 (h _)
    · exact h1
  | decode =>
    obtain ⟨e, -, h1⟩ | ⟨raw, v, -, -, -, h1⟩ | ⟨k, -, -, h1⟩ := execDecode_cases s
    · exact absurd h1 (h _)
    · exact absurd h1 (h _)
    · exact ⟨_, h1⟩
  | frameAbsent n c x y z k =>
    simp only [exec_frameAbsent] at h
    exact absurd (receiveRaw_eq (raw := absentBytes n c x y z k) s (by simp)) (h _)
  | framePresent n c r g a k =>
    simp only [exec_framePresent] at h
    exact absurd (receiveRaw_eq (raw := presentBytes n c r g a k) s (by simp)) (h _)

/-! ### A word write -/

/-- What a `CMD` write does (R23, R191). -/
theorem writeCommand_ok {w : Half} {i : Instr} (s : State) (h : decode (.cmd w) = .ok i) :
    writeCommand w s = exec i s := by rw [writeCommand, h]

theorem writeCommand_reserved {w : Half} {e : Reject} (s : State) (h : decode (.cmd w) = .error e) :
    writeCommand w s = .next (setIllCmd s) := by rw [writeCommand, h]; rfl

/-- A host write of a 16-bit word to register 0 is a command (R23). -/
theorem hostWrite_cmd (w : Half) (s : State) : hostWrite 0 w.toNat s = writeCommand w s := by
  have h : w.toNat < 2 ^ regWidth .cmd := w.isLt
  simp only [hostWrite, show regOfNum 0 = some Reg.cmd from rfl, regAccess, if_pos h, BitVec.ofNat_toNat,
    BitVec.setWidth_eq]

theorem regOfNum_regNum (r : Reg) : regOfNum (regNum r) = some r := by cases r <;> rfl

theorem regNum_of_regOfNum {n : Nat} {r : Reg} (h : regOfNum n = some r) : n = regNum r := by
  have hn : n < 35 := by
    by_contra hc
    rw [regOfNum, List.getElem?_eq_none (by simp [regTable]; omega)] at h; cases h
  interval_cases n <;> simp [regOfNum, regTable] at h <;> subst h <;> rfl

/-- Everything a register write can do when it completes (R192). -/
theorem hostWrite_cases {n v : Nat} {s t : State} (h : hostWrite n v s = .next t) :
    (∃ w : Half, n = 0 ∧ v = w.toNat ∧ writeCommand w s = .next t) ∨
    (∃ r, n = regNum r ∧ regAccess r = .rw ∧ v < 2 ^ regWidth r ∧ t = storeReg r v s) := by
  unfold hostWrite at h
  cases hr : regOfNum n with
  | none => rw [hr] at h; cases h
  | some r =>
    have hn := regNum_of_regOfNum hr
    rw [hr] at h; simp only at h
    cases ha : regAccess r with
    | r => rw [ha] at h; cases h
    | w =>
      rw [ha] at h; simp only at h
      split_ifs at h with hv
      have : r = .cmd := by cases r <;> first | rfl | cases ha
      subst this
      refine .inl ⟨BitVec.ofNat 16 v, hn, ?_, h⟩
      rw [BitVec.toNat_ofNat]; exact (Nat.mod_eq_of_lt hv).symm
    | rw =>
      rw [ha] at h; simp only at h
      split_ifs at h with hv
      cases h
      exact .inr ⟨r, hn, ha, hv, rfl⟩

/-- Everything a register read can do when it completes (R193). -/
theorem hostRead_eq_next {n : Nat} {s t : State} (h : hostRead n s = .next t) : ∃ v, t = noteReturned [v] s := by
  unfold hostRead at h
  split at h
  · cases h
  · obtain ⟨v, -, h2⟩ := andThen_eq_next h
    cases h2; exact ⟨v, rfl⟩

theorem hostReadByte_eq_next {b : Buf} {i : Nat} {s t : State} (h : hostReadByte b i s = .next t) :
    ∃ vs, t = noteReturned vs s := by
  obtain ⟨v, -, h2⟩ := andThen_eq_next h
  cases h2; exact ⟨_, rfl⟩

theorem noteReturned_noteReturned (a b : List Nat) (s : State) :
    noteReturned b (noteReturned a s) = noteReturned (a ++ b) s := by simp [noteReturned]

theorem readTxFrom_eq_next {n i : Nat} {s t : State} (h : readTxFrom i n s = .next t) : ∃ vs, t = noteReturned vs s := by
  induction n generalizing i s with
  | zero => cases h; exact ⟨[], by simp [noteReturned]⟩
  | succ n ih =>
    obtain ⟨s', h1, h2⟩ := andThen_eq_next h
    obtain ⟨a, rfl⟩ := hostReadByte_eq_next h1
    obtain ⟨b, rfl⟩ := ih h2
    exact ⟨_, noteReturned_noteReturned _ _ _⟩

/-- `RDTX` changes nothing in the block. -/
theorem readTx_eq_next {s t : State} (h : readTx s = .next t) : ∃ vs, t = noteReturned vs s := by
  obtain ⟨s', h1, h2⟩ := andThen_eq_next h
  obtain ⟨a, rfl⟩ := hostRead_eq_next h1
  obtain ⟨b, rfl⟩ := readTxFrom_eq_next h2
  exact ⟨_, noteReturned_noteReturned _ _ _⟩

/-- Every buffer write that completes stays inside the buffer. -/
theorem memWrite_eq_next {b : Buf} {i : Nat} {bytes : List Byte} {s t : State} (h : memWrite b i bytes s = .next t) :
    i + bytes.length ≤ bufSize b ∧ t = s.setBuf b ((s.buf b).writeBytes i bytes) := by
  unfold memWrite at h
  split_ifs at h with hi
  cases h; exact ⟨hi, rfl⟩

/-- Copying from `TXBUF` to `RXBUF` changes `RXBUF` and what the host has read; `RXBUF` keeps its form. -/
theorem copyTxFrom_eq_next {n i : Nat} {s t : State} (h : copyTxFrom i n s = .next t) (hi : i ≤ 256) :
    i + n ≤ 256 ∧ ∃ m vs, t = { s with rxbuf := m, returned := vs } ∧
      (s.rxbuf.wf = true → m.wf = true) ∧ (s.rxbuf.within 256 = true → m.within 256 = true) := by
  induction n generalizing i s with
  | zero => cases h; exact ⟨by omega, t.rxbuf, t.returned, rfl, id, id⟩
  | succ n ih =>
    obtain ⟨vs, h1, h2⟩ := andThen_eq_next h
    obtain ⟨s', h3, h4⟩ := andThen_eq_next h2
    obtain ⟨hin, rfl⟩ := memWrite_eq_next h3
    have hi1 : i + 1 ≤ 256 := by
      unfold memRead at h1; split_ifs at h1 with hc; simpa [bufSize] using hc
    obtain ⟨h5, m, ws, rfl, hwf, hwi⟩ := ih h4 (by omega)
    refine ⟨by omega, m, ws, rfl, fun h => hwf ?_, fun h => hwi ?_⟩
    · exact Memory.wf_writeBytes _ _ h
    · exact Memory.within_writeBytes h (by simpa [bufSize] using hin)

/-- Everything a transaction can do when it completes. -/
theorem runTxn_cases {x : Txn} {s t : State} (h : runTxn x s = .next t) :
    (∃ (w : Half) (i : Instr), x = .wr 0 w.toNat ∧ decode (.cmd w) = .ok i ∧ exec i s = .next t) ∨
    (∃ (w : Half) (e : Reject), x = .wr 0 w.toNat ∧ decode (.cmd w) = .error e ∧ t = setIllCmd s) ∨
    (∃ r v, x = .wr (regNum r) v ∧ regAccess r = .rw ∧ v < 2 ^ regWidth r ∧ t = storeReg r v s) ∨
    (∃ vs, (∀ n v, x ≠ .wr n v) ∧ t = noteReturned vs s) ∨
    (∃ b i v, x = .wb b i v ∧ b ≠ .txbuf ∧ i + 1 ≤ bufSize b ∧
      t = s.setBuf b ((s.buf b).write i (BitVec.ofNat 8 v))) ∨
    (x = .reset ∧ t = applyReset s) ∨
    (x = .tx2rx ∧ s.txLen.toNat ≤ 256 ∧ ∃ m vs, t = { s with rxbuf := m, returned := vs, rxLen := s.txLen } ∧
      (s.rxbuf.wf = true → m.wf = true) ∧ (s.rxbuf.within 256 = true → m.within 256 = true)) ∨
    (∃ raw, x = .receive raw ∧ receiveRaw raw s = .next t) := by
  cases x with
  | wr n v =>
    obtain ⟨w, rfl, rfl, hw⟩ | ⟨r, rfl, ha, hv, rfl⟩ := hostWrite_cases h
    · cases hd : decode (.cmd w) with
      | ok i => exact .inl ⟨w, i, rfl, hd, by rw [← writeCommand_ok s hd]; exact hw⟩
      | error e =>
        rw [writeCommand_reserved s hd] at hw; cases hw
        exact .inr (.inl ⟨w, e, rfl, hd, rfl⟩)
    · exact .inr (.inr (.inl ⟨r, v, rfl, ha, hv, rfl⟩))
  | rd n => obtain ⟨v, rfl⟩ := hostRead_eq_next h; exact .inr (.inr (.inr (.inl ⟨_, by simp, rfl⟩)))
  | wb b i v =>
    simp only [runTxn, hostWriteByte] at h
    split_ifs at h with hb hv
    obtain ⟨hi, rfl⟩ := memWrite_eq_next h
    exact .inr (.inr (.inr (.inr (.inl ⟨b, i, v, rfl, hb, hi, rfl⟩))))
  | rb b i => obtain ⟨vs, rfl⟩ := hostReadByte_eq_next h; exact .inr (.inr (.inr (.inl ⟨_, by simp, rfl⟩)))
  | reset => cases h; exact .inr (.inr (.inr (.inr (.inr (.inl ⟨rfl, rfl⟩)))))
  | rdtx => obtain ⟨vs, rfl⟩ := readTx_eq_next h; exact .inr (.inr (.inr (.inl ⟨_, by simp, rfl⟩)))
  | tx2rx =>
    obtain ⟨s', h1, h2⟩ := andThen_eq_next h
    obtain ⟨hn, m, vs, rfl, hwf, hwi⟩ := copyTxFrom_eq_next h1 (by omega)
    have hlen : s.txLen.toNat ≤ 256 := by omega
    refine .inr (.inr (.inr (.inr (.inr (.inr (.inl ⟨rfl, hlen, m, vs, ?_, hwf, hwi⟩))))))
    have hw : hostWrite (regNum .rxLen) s.txLen.toNat { s with rxbuf := m, returned := vs }
        = .next (storeReg .rxLen s.txLen.toNat { s with rxbuf := m, returned := vs }) := by
      simp only [hostWrite, regOfNum_regNum, regAccess, if_pos (show s.txLen.toNat < 2 ^ regWidth .rxLen from s.txLen.isLt)]
    rw [hw] at h2
    cases h2
    simp only [storeReg, storeRxLen, if_pos (show s.txLen.toNat ≤ Config.rxbufSize from hlen), BitVec.ofNat_toNat,
      BitVec.setWidth_eq]
  | receive raw =>
    exact .inr (.inr (.inr (.inr (.inr (.inr (.inr ⟨raw, rfl, by rw [← receiveLine_eq]; exact h⟩))))))

/-! ### The script -/

/-- `s` with another script. -/
def withScript (ts : List Txn) (s : State) : State := { s with script := ts }

@[simp] theorem withScript_script (ts : List Txn) (s : State) : (withScript ts s).script = ts := rfl

@[simp] theorem withScript_buf (ts : List Txn) (s : State) (b : Buf) : (withScript ts s).buf b = s.buf b := by
  cases b <;> rfl

/-- `f` does to a state with another script what it does to the state, and leaves the script alone. -/
def IgnoresScript (f : State → Result) : Prop :=
  ∀ ts s, f (withScript ts s) = andThen (f s) fun t => .next (withScript ts t)

theorem IgnoresScript.andThen {f g : State → Result} (hf : IgnoresScript f) (hg : IgnoresScript g) :
    IgnoresScript fun s => Machine.andThen (f s) g := by
  intro ts s
  simp only [hf ts s]
  cases f s with
  | next t => simp only [andThen_next]; exact hg ts t
  | fault r => rfl
  | refused r => rfl

theorem ignoresScript_memWrite (b : Buf) (i : Nat) (bytes : List Byte) : IgnoresScript (memWrite b i bytes) := by
  intro ts s
  simp only [memWrite, withScript_buf]
  split_ifs
  · cases b <;> rfl
  · rfl

theorem memRead_withScript (ts : List Txn) (s : State) (b : Buf) (i n : Nat) :
    memRead b i n (withScript ts s) = memRead b i n s := memRead_congr i n (withScript_buf ts s b)

theorem ignoresScript_storePayload (p : List Byte) : IgnoresScript (storePayload p) := by
  intro ts s
  simp only [storePayload, ignoresScript_memWrite .plbuf 0 p ts s]
  cases memWrite .plbuf 0 p s <;> rfl

theorem ignoresScript_buildPresent : IgnoresScript buildPresent := by
  intro ts s
  have h : presentOperands (withScript ts s) = presentOperands s := rfl
  rw [buildPresent, h, buildPresent]
  cases presentOperands s with
  | next p => exact ignoresScript_storePayload p ts s
  | fault r => rfl
  | refused r => rfl

theorem ignoresScript_buildAbsent : IgnoresScript buildAbsent := by
  intro ts s
  have h : absentOperands (withScript ts s) = absentOperands s := rfl
  rw [buildAbsent, h, buildAbsent]
  cases absentOperands s with
  | next p => exact ignoresScript_storePayload p ts s
  | fault r => rfl
  | refused r => rfl

theorem raise_withScript (e : Err) (ts : List Txn) (s : State) : raise e (withScript ts s) = withScript ts (raise e s) := by
  cases e <;> rfl

theorem putRecord_withScript (v : Valid) (ts : List Txn) (s : State) :
    putRecord v (withScript ts s) = withScript ts (putRecord v s) := by
  unfold putRecord writePayloadPart; split_ifs <;> rfl

theorem ignoresScript_putFrame (f : List Byte) : IgnoresScript (putFrame f) := by
  intro ts s
  simp only [putFrame, ignoresScript_memWrite .txbuf 0 f ts s]
  cases memWrite .txbuf 0 f s <;> rfl

theorem ignoresScript_execEncode : IgnoresScript execEncode := by
  intro ts s
  simp only [execEncode, memRead_withScript, raise_withScript,
    show (withScript ts s).plLen = s.plLen from rfl, show (withScript ts s).nodeId = s.nodeId from rfl,
    show (withScript ts s).msgCnt = s.msgCnt from rfl]
  by_cases hsz : s.plLen.toNat ∉ Config.shapes
  · rw [if_pos hsz, if_pos hsz]; rfl
  · rw [if_neg hsz, if_neg hsz]
    cases memRead .plbuf 0 s.plLen.toNat s with
    | fault r => rfl
    | refused r => rfl
    | next p =>
      cases s.nodeId with
      | invalid => rfl
      | defined n =>
        cases s.msgCnt with
        | invalid => rfl
        | defined c =>
          simp only [andThen_next, need_defined]
          cases encodeFrame n c p with
          | error e => simp only [andThen_next]
          | ok f => exact ignoresScript_putFrame f ts s

theorem ignoresScript_execDecode : IgnoresScript execDecode := by
  intro ts s
  simp only [execDecode, memRead_withScript, raise_withScript, putRecord_withScript,
    show (withScript ts s).rxLen = s.rxLen from rfl]
  split_ifs
  · rfl
  · cases memRead .rxbuf 0 Config.hdrLen s with
    | fault r => rfl
    | refused r => rfl
    | next hd =>
      simp only [andThen_next]
      cases lengthAndShape s.rxLen.toNat (hd.getD 6 0#8) with
      | some e => rfl
      | none =>
        simp only
        cases memRead .rxbuf 0 s.rxLen.toNat s with
        | fault r => rfl
        | refused r => rfl
        | next raw =>
          simp only [andThen_next]
          cases parse raw <;> rfl

theorem storeRxLen_withScript (v : Nat) (ts : List Txn) (s : State) :
    storeRxLen v (withScript ts s) = withScript ts (storeRxLen v s) := by
  unfold storeRxLen; split_ifs <;> rfl

theorem ignoresScript_receiveRaw (raw : List Byte) : IgnoresScript (receiveRaw raw) := by
  intro ts s
  have hload : IgnoresScript (loadRx raw) := by
    intro ts s
    simp only [loadRx, ignoresScript_memWrite .rxbuf 0 raw ts s]
    cases memWrite .rxbuf 0 raw s with
    | next t => simp only [andThen_next, storeRxLen_withScript]
    | fault r => rfl
    | refused r => rfl
  unfold receiveRaw
  split_ifs
  · exact (hload.andThen ignoresScript_execDecode) ts s
  · rfl

/-- Every instruction ignores the script. -/
theorem ignoresScript_exec (i : Instr) : IgnoresScript (exec i) := by
  cases i with
  | nop => intro ts s; rfl
  | crcInit => intro ts s; rfl
  | crcByte b => intro ts s; rfl
  | plPresent => exact ignoresScript_buildPresent
  | plAbsent => exact ignoresScript_buildAbsent
  | plBuild =>
    intro ts s
    simp only [exec, execPlBuild, show (withScript ts s).measFound = s.measFound from rfl]
    cases s.measFound with
    | invalid => rfl
    | defined f =>
      simp only [need_defined, andThen_next]
      split_ifs
      · exact ignoresScript_buildPresent ts s
      · exact ignoresScript_buildAbsent ts s
  | encode => exact ignoresScript_execEncode
  | decode => exact ignoresScript_execDecode
  | frameAbsent n c x y z k =>
    intro ts s
    simp only [exec_frameAbsent]
    exact ignoresScript_receiveRaw (absentBytes n c x y z k) ts s
  | framePresent n c r h a k =>
    intro ts s
    simp only [exec_framePresent]
    exact ignoresScript_receiveRaw (presentBytes n c r h a k) ts s

theorem storeReg_withScript (r : Reg) (v : Nat) (ts : List Txn) (s : State) :
    storeReg r v (withScript ts s) = withScript ts (storeReg r v s) := by
  cases r <;> first | rfl | exact storeRxLen_withScript v ts s

theorem ignoresScript_hostWrite (n v : Nat) : IgnoresScript (hostWrite n v) := by
  intro ts s
  unfold hostWrite
  cases regOfNum n with
  | none => rfl
  | some r =>
    simp only
    cases regAccess r with
    | r => rfl
    | w =>
      simp only
      split_ifs
      · unfold writeCommand
        cases decode (.cmd (BitVec.ofNat 16 v)) with
        | ok i => exact ignoresScript_exec i ts s
        | error e => rfl
      · rfl
    | rw =>
      simp only [storeReg_withScript]
      split_ifs <;> rfl

theorem readReg_withScript (r : Reg) (ts : List Txn) (s : State) : readReg r (withScript ts s) = readReg r s := by
  cases r <;> rfl

theorem ignoresScript_hostRead (n : Nat) : IgnoresScript (hostRead n) := by
  intro ts s
  unfold hostRead
  cases regOfNum n with
  | none => rfl
  | some r =>
    simp only [readReg_withScript]
    cases readReg r s <;> rfl

theorem ignoresScript_hostReadByte (b : Buf) (i : Nat) : IgnoresScript (hostReadByte b i) := by
  intro ts s
  unfold hostReadByte
  rw [memRead_withScript]
  cases memRead b i 1 s <;> rfl

theorem ignoresScript_readTxFrom (i n : Nat) : IgnoresScript (readTxFrom i n) := by
  induction n generalizing i with
  | zero => intro ts s; rfl
  | succ n ih => exact (ignoresScript_hostReadByte .txbuf i).andThen (ih (i + 1))

theorem ignoresScript_copyTxFrom (i n : Nat) : IgnoresScript (copyTxFrom i n) := by
  induction n generalizing i with
  | zero => intro ts s; rfl
  | succ n ih =>
    intro ts s
    simp only [copyTxFrom, memRead_withScript]
    cases memRead .txbuf i 1 s with
    | fault r => rfl
    | refused r => rfl
    | next vs =>
      simp only [andThen_next]
      exact ((ignoresScript_memWrite .rxbuf i vs).andThen (ih (i + 1))) ts (noteReturned (vs.map BitVec.toNat) s)

/-- Every transaction ignores the script that follows it. -/
theorem ignoresScript_runTxn (x : Txn) : IgnoresScript (runTxn x) := by
  cases x with
  | wr n v => exact ignoresScript_hostWrite n v
  | rd n => exact ignoresScript_hostRead n
  | wb b i v =>
    intro ts s
    simp only [runTxn, hostWriteByte]
    split_ifs
    · rfl
    · exact ignoresScript_memWrite b i _ ts s
    · rfl
  | rb b i => exact ignoresScript_hostReadByte b i
  | reset => intro ts s; rfl
  | rdtx =>
    intro ts s
    exact ((ignoresScript_hostRead (regNum .txLen)).andThen (ignoresScript_readTxFrom 0 s.txLen.toNat)) ts s
  | tx2rx =>
    intro ts s
    exact ((ignoresScript_copyTxFrom 0 s.txLen.toNat).andThen (ignoresScript_hostWrite (regNum .rxLen) s.txLen.toNat)) ts s
  | receive raw =>
    intro ts s
    simp only [runTxn, receiveLine_eq]
    exact ignoresScript_receiveRaw raw ts s

/-- A transaction leaves the script alone. -/
theorem runTxn_script {x : Txn} {s t : State} (h : runTxn x s = .next t) : t.script = s.script := by
  have h1 := ignoresScript_runTxn x s.script s
  rw [show withScript s.script s = s from rfl, h, andThen_next] at h1
  injection h1 with h2
  rw [h2]; rfl

/-- A run of the host's interface, unfolded once, for any machine. -/
theorem core_run_succ (M : Host.Core) (k : Nat) (s : M.State) :
    M.run (k + 1) s = match M.step s with | .next t => M.run k t | .fault r => .fault r | .refused r => .refused r := rfl

/-- A run of this machine takes its first step and goes on. -/
theorem run_succ (k : Nat) (s : State) :
    Host.Core.run Sys2Proof.core (k + 1) s = andThen (step s) (Host.Core.run Sys2Proof.core k) := by
  refine (core_run_succ Sys2Proof.core k s).trans ?_
  show _ = andThen (Sys2Proof.core.step s) _
  generalize Sys2Proof.core.step s = o
  cases o <;> rfl

theorem step_nil {s : State} (h : s.script = []) : step s = .next s := by rw [step, takeTxn, h]

theorem step_cons {s : State} {x : Txn} {rest : List Txn} (h : s.script = x :: rest) :
    step s = runTxn x (withScript rest s) := by rw [step, takeTxn, h]; rfl

end Sys2Proof.Machine
end

