-- ==== Sys2Proof/Laws/Script.lean ====
section
/-!
SUPPORT. Scripts: running one after another, and what the expansions of R101 and R102 do.
-/

namespace Sys2Proof.Machine

theorem runScript_append (a b : List Txn) (s : State) :
    runScript (a ++ b) s = andThen (runScript a s) (runScript b) := by
  induction a generalizing s with
  | nil => rfl
  | cons x a ih =>
    simp only [List.cons_append, runScript, andThen_assoc]
    congr 1; funext t; exact ih t

/-- A legal write of an `RW` register (R192). -/
theorem runTxn_scriptWrite {r : Reg} {v : Nat} (s : State) (h : regAccess r = .rw) (hv : v < 2 ^ regWidth r) :
    runTxn (scriptWrite r v) s = .next (storeReg r v s) := by
  simp only [scriptWrite, runTxn, hostWrite, regOfNum_regNum, h]; rw [if_pos hv]

/-- `RD` of a register by name (R193). -/
theorem runTxn_scriptRead (r : Reg) (s : State) :
    runTxn (scriptRead r) s = andThen (readReg r s) fun v => .next (noteReturned [v] s) := by
  simp only [scriptRead, runTxn, hostRead, regOfNum_regNum]

/-- `WBS RXBUF[i], ...` (R102). -/
theorem runScript_scriptBytes_rxbuf (i : Nat) (raw : List Byte) (s : State) (h : i + raw.length ≤ 256) :
    runScript (scriptBytes .rxbuf i raw) s = .next { s with rxbuf := s.rxbuf.writeBytes i raw } := by
  induction raw generalizing i s with
  | nil => rfl
  | cons b bs ih =>
    simp only [List.length_cons] at h
    have hb : runTxn (.wb .rxbuf i b.toNat) s = .next { s with rxbuf := s.rxbuf.write i b } := by
      simp only [runTxn, hostWriteByte, reduceCtorEq, if_false, if_pos b.isLt]
      rw [memWrite_inside s (by simp [bufSize]; omega)]
      simp [Memory.writeBytes, State.setBuf, State.buf]
    simp only [scriptBytes, runScript, hb, andThen_next]
    exact ih (i + 1) _ (by omega)

/-- A command line runs the command its word decodes to (R101). -/
theorem runTxn_scriptCmd {i : Instr} {w : Half} (s : State) (h : encode i = .cmd w) (hd : decode (.cmd w) = .ok i) :
    runTxn (scriptCmd i) s = exec i s := by
  simp only [scriptCmd, commandOf, h, runTxn]
  exact (hostWrite_cmd w s).trans (writeCommand_ok s hd)

end Sys2Proof.Machine
end

