-- ==== Sys2Proof/Tests/Slice0.lean ====
section
/-!
SUPPORT. Tests. Expected values are the spec's: 95_test_vectors.md by section, or the encodings of R92 and R87. The
witnesses show that the hypotheses of the statements can be met together.
-/

namespace Sys2Proof.Tests

open Sys2Proof.Machine

/-! ### Small states -/

/-- A buffer that holds a byte sequence from offset 0 on and nothing else. -/
def cells (bytes : List Byte) : Memory := Memory.writeBytes [] 0 bytes

/-- Frame S1 of 95_test_vectors.md. -/
def s1 : List Byte :=
  [0x00#8, 0x07#8, 0x00#8, 0x00#8, 0x00#8, 0x2A#8, 0x08#8, 0xC1#8, 0x06#8] ++
  [0xAA#8, 0xBB#8, 0xCC#8, 0xDD#8, 0xEE#8, 0xFF#8, 0x0F#8, 0xC0#8, 0x27#8, 0x0A#8]

/-- Frame S2 of 95_test_vectors.md. -/
def s2 : List Byte :=
  [0x00#8, 0x07#8, 0x00#8, 0x00#8, 0x00#8, 0x2B#8, 0x03#8, 0x7F#8, 0x7F#8, 0x7F#8, 0x14#8, 0xFF#8, 0x92#8, 0xBD#8]

/-- H5 of 95_test_vectors.md: a correct checksum on an unknown shape. -/
def h5 : List Byte :=
  [0x00#8, 0x07#8, 0x00#8, 0x00#8, 0x00#8, 0x2A#8, 0x05#8, 0x01#8, 0x02#8, 0x03#8, 0x04#8, 0x05#8, 0xE8#8, 0xC7#8, 0x4A#8,
    0x64#8]

/-- H0 of 95_test_vectors.md: eleven bytes with `msg_len` 0. -/
def h0 : List Byte := [0x00#8, 0x07#8, 0x00#8, 0x00#8, 0x00#8, 0x2A#8, 0x00#8, 0xEF#8, 0x02#8, 0x23#8, 0xEE#8]

/-- The present-shape payload of S1. -/
def p8 : List Byte := [0xC1#8, 0x06#8, 0xAA#8, 0xBB#8, 0xCC#8, 0xDD#8, 0xEE#8, 0xFF#8]

/-- The absent-shape payload of S2. -/
def p3 : List Byte := [0x7F#8, 0x7F#8, 0x7F#8]

/-- The address of S1. -/
def addr1 : Address := ⟨0xAA#8, 0xBB#8, 0xCC#8, 0xDD#8, 0xEE#8, 0xFF#8⟩

/-- After reset, with the measurement of S1 written. -/
def measured : State :=
  { State.reset with
    rssi := .defined 0xC1#8, chan := .defined 0x06#8
    bssid0 := .defined 0xAA#8, bssid1 := .defined 0xBB#8, bssid2 := .defined 0xCC#8
    bssid3 := .defined 0xDD#8, bssid4 := .defined 0xEE#8, bssid5 := .defined 0xFF#8 }

/-- After reset, with a sentinel written. -/
def sentinel : State := { State.reset with measNa := .defined 0x7F#8 }

/-- After reset, with a payload and the two header registers written. -/
def toSend (msgCnt : Word) (p : List Byte) : State :=
  { State.reset with
    nodeId := .defined 7#16, msgCnt := .defined msgCnt, plbuf := cells p, plLen := BitVec.ofNat 8 p.length }

/-- After reset, with bytes loaded for `DECODE`. -/
def toReceive (raw : List Byte) : State :=
  { State.reset with rxbuf := cells raw, rxLen := BitVec.ofNat 9 raw.length }

/-- After reset, with a script to run. -/
def scripted (ts : List Txn) : State := { State.reset with script := ts }

theorem cells_holds (bytes : List Byte) : HoldsBytes (cells bytes) 0 bytes := holdsBytes_writeBytes _ _ _

/-! ### Decoding: every constructor, from words written out (R92, R87) -/

theorem test_decode_nop : decode (.cmd 0b0000000000000000#16) = .ok .nop := by decide

theorem test_decode_crcInit : decode (.cmd 0b0000000000000001#16) = .ok .crcInit := by decide

theorem test_decode_crcByte : decode (.cmd 0b0110000100000010#16) = .ok (.crcByte 0x61#8) := by decide

theorem test_decode_plPresent : decode (.cmd 0b0000000000010000#16) = .ok .plPresent := by decide

theorem test_decode_plAbsent : decode (.cmd 0b0000000000010001#16) = .ok .plAbsent := by decide

theorem test_decode_plBuild : decode (.cmd 0b0000000000010010#16) = .ok .plBuild := by decide

theorem test_decode_encode : decode (.cmd 0b0000000000100000#16) = .ok .encode := by decide

theorem test_decode_decode : decode (.cmd 0b0000000000110000#16) = .ok .decode := by decide

theorem test_decode_frameAbsent :
    decodeTableWord 112 0x00070000002B037F7F7F14FF92BD =
      some (.frameAbsent 7#16 43#32 0x7F#8 0x7F#8 0x7F#8 0x14FF92BD#32) := by decide

theorem test_decode_framePresent :
    decodeTableWord 152 0x00070000002A08C106AABBCCDDEEFF0FC0270A =
      some (.framePresent 7#16 42#32 0xC1#8 0x06#8 addr1 0x0FC0270A#32) := by decide

/-- Reserved words (R94, section 2.6). -/
theorem test_decode_reserved :
    decode (.cmd 0x00FF#16) = .error (.reservedOpcode 0xFF#8) ∧
    decode (.cmd 0x0003#16) = .error (.reservedOpcode 0x03#8) ∧
    decode (.cmd 0x0120#16) = .error (.reservedImmediate 0x20#8 0x01#8) ∧
    decode (.cmd 0x0100#16) = .error (.reservedImmediate 0x00#8 0x01#8) := by decide

/-- No layout of R87. -/
theorem test_decode_no_frame :
    decode (.frame h5) = .error (.noFrameLength 16) ∧
    decode (.frame (s1.set 6 0x03#8)) = .error (.wrongMsgLen 19 0x03#8) := by decide

theorem test_commandWords :
    scriptCmd (.crcByte 0x61#8) = .wr 0 0x6102 ∧ scriptCmd .encode = .wr 0 0x0020 ∧ scriptCmd .plBuild = .wr 0 0x0012 := by
  decide

/-! ### WellFormed refuses a wrong checksum (R86) -/

theorem test_wellFormed_frameAbsent :
    (Instr.frameAbsent 7#16 43#32 0x7F#8 0x7F#8 0x7F#8 0x14FF92BD#32).wellFormed = true ∧
    (Instr.frameAbsent 7#16 43#32 0x7F#8 0x7F#8 0x7F#8 0x14FF92BC#32).wellFormed = false := by decide +kernel

theorem test_wellFormed_framePresent :
    (Instr.framePresent 7#16 42#32 0xC1#8 0x06#8 addr1 0x0FC0270A#32).wellFormed = true ∧
    (Instr.framePresent 7#16 42#32 0xC0#8 0x06#8 addr1 0x0FC0270A#32).wellFormed = false := by decide +kernel

/-! ### The register file (R22) -/

theorem test_regNums : ∀ n, n < 35 → (regOfNum n).map regNum = some n := by decide

theorem test_regNum_last : regOfNum 0x22 = some .recSent2 ∧ regOfNum 0x23 = none := by decide

/-! ### Functions (sections 2.1, 2.2, 2.3, 2.4) -/

theorem test_crc32_abc : crc32 [0x61#8, 0x62#8, 0x63#8] = 0x352441C2#32 := by decide +kernel

theorem test_crcStep : crcStep 0x7C231048#32 0x32#8 = 0xB0ACBB32#32 ∧ crcTableEntry 3#8 = 0x990951BA#32 := by decide

theorem test_crc32_of_s1 : crc32 s1 = 0xDB6278AF#32 := by decide +kernel

theorem test_twos8 : twos8 ⟨-63, by decide⟩ = 0xC1#8 ∧ sint8 0x9C#8 = ⟨-100, by decide⟩ := by decide

theorem test_encode_s1_s2 : encodeFrame 7#16 42#32 p8 = .ok s1 ∧ encodeFrame 7#16 43#32 p3 = .ok s2 := by decide +kernel

/-- Frames S3 and S8: byte order (E7), content not checked (R147). -/
theorem test_encode_s3_s8 :
    encodeFrame 0x1234#16 0xFFFFFFFF#32 p3 =
      .ok [0x12#8, 0x34#8, 0xFF#8, 0xFF#8, 0xFF#8, 0xFF#8, 0x03#8, 0x7F#8, 0x7F#8, 0x7F#8, 0x0C#8, 0xD4#8, 0x01#8, 0xFC#8] ∧
    encodeFrame 0xABCD#16 0x01020304#32 [0x7F#8, 0x00#8, 0x01#8] =
      .ok [0xAB#8, 0xCD#8, 0x01#8, 0x02#8, 0x03#8, 0x04#8, 0x03#8, 0x7F#8, 0x00#8, 0x01#8, 0xE9#8, 0x84#8, 0x08#8, 0x83#8] := by
  decide +kernel

theorem test_encode_formatError : encodeFrame 7#16 42#32 [1#8, 2#8, 3#8, 4#8, 5#8] = .error .formatError := by decide +kernel

theorem test_decode_s1 :
    decodeRaw s1 = .ok { nodeId := 7#16, msgCnt := 42#32, body := .present ⟨-63, by decide⟩ 6#8 addr1 } := by decide +kernel

theorem test_decode_s2 :
    decodeRaw s2 = .ok { nodeId := 7#16, msgCnt := 43#32, body := .absent 0x7F#8 0x7F#8 0x7F#8 } := by decide +kernel

/-- Rejections, with the order of the steps (R166). -/
theorem test_decode_rejections :
    decodeRaw (s1.take 10) = .error .tooShort ∧ decodeRaw (s1.take 11) = .error .lengthMismatch ∧
    decodeRaw (s1.set 6 0x09#8) = .error .lengthMismatch ∧ decodeRaw h5 = .error .unknownPayloadShape ∧
    decodeRaw h0 = .error .unknownPayloadShape ∧ decodeRaw (s1.set 7 0xC0#8) = .error .checksumFailed ∧
    decodeRaw (s1.set 18 0x8A#8) = .error .checksumFailed := by decide +kernel

/-! ### Commands (sections 2.1 to 2.7) -/

theorem test_nop : nextOf (exec .nop measured) = some measured := by decide

theorem test_crcByte : (nextOf (exec (.crcByte 0x61#8) State.reset)).map (·.crcAcc) = some 0x174841BC#32 := by decide

theorem test_crcInit :
    (nextOf (exec .crcInit { State.reset with crcAcc := 0x174841BC#32 })).map (·.crcAcc) = some 0xFFFFFFFF#32 := by decide

theorem test_plPresent :
    (nextOf (exec .plPresent measured)).map (fun t => (t.plbuf, t.plLen)) = some (cells p8, 8#8) := by decide

theorem test_plPresent_rssi_invalid :
    refusalOf (exec .plPresent { measured with rssi := .invalid }) = some (.invalidRead (.reg .rssi)) := by decide

/-- After a present-shape payload the bytes beyond the sentinel stay (section 2.2). -/
theorem test_plAbsent :
    (nextOf (exec .plAbsent { sentinel with plbuf := cells p8 })).map (fun t => (t.plbuf, t.plLen)) =
      some (cells [0x7F#8, 0x7F#8, 0x7F#8, 0xBB#8, 0xCC#8, 0xDD#8, 0xEE#8, 0xFF#8], 3#8) := by decide

theorem test_plBuild :
    (nextOf (exec .plBuild { measured with measFound := .defined 1#1 })).map (fun t => (t.plbuf, t.plLen)) =
      some (cells p8, 8#8) ∧
    (nextOf (exec .plBuild { sentinel with measFound := .defined 0#1 })).map (fun t => (t.plbuf, t.plLen)) =
      some (cells p3, 3#8) := by decide

theorem test_plBuild_found_invalid :
    refusalOf (exec .plBuild { measured with measNa := .defined 0x7F#8 }) = some (.invalidRead (.reg .measFound)) := by decide

theorem test_encode :
    (nextOf (exec .encode (toSend 42#32 p8))).map (fun t => (t.txbuf, t.txLen, t.encStatus)) = some (cells s1, 19#9, 1#3) := by
  decide +kernel

/-- The earlier frame is gone after a `FormatError` (R153). -/
theorem test_encode_formatError_clears :
    (nextOf (exec .encode { toSend 42#32 [1#8, 2#8, 3#8, 4#8, 5#8] with txbuf := cells s1, txLen := 19#9 })).map
      (fun t => (t.txbuf, t.txLen, t.encStatus)) = some ([], 0#9, 2#3) := by decide

theorem test_decode_accepts :
    (nextOf (exec .decode (toReceive s1))).map (fun t => (t.decStatus, t.recNodeId, t.recShape)) =
      some (1#3, .defined 7#16, .defined 1#1) ∧
    (nextOf (exec .decode (toReceive s1))).map (fun t => (t.recRssi, t.recBssid5, t.recSent0)) =
      some (.defined 0xC1#8, .defined 0xFF#8, .invalid) := by decide +kernel

/-- A rejection clears the record of an earlier acceptance (R169). -/
theorem test_decode_rejects :
    (nextOf (exec .decode { toReceive (s2.set 5 0x2A#8) with recNodeId := .defined 7#16, recSent0 := .defined 0x7F#8 })).map
      (fun t => (t.decStatus, t.recNodeId, t.recSent0)) = some (7#3, .invalid, .invalid) := by decide +kernel

theorem test_frameAbsent :
    (nextOf (exec (.frameAbsent 7#16 43#32 0x7F#8 0x7F#8 0x7F#8 0x14FF92BD#32) State.reset)).map
      (fun t => (t.rxbuf, t.decStatus, t.recSent2)) = some (cells s2, 1#3, .defined 0x7F#8) := by decide +kernel

theorem test_framePresent :
    (nextOf (exec (.framePresent 7#16 42#32 0xC1#8 0x06#8 addr1 0x0FC0270A#32) State.reset)).map
      (fun t => (t.rxLen, t.decStatus, t.recChan)) = some (19#9, 1#3, .defined 6#8) := by decide +kernel

/-! ### Host transactions (sections 2.6, 2.7) -/

theorem test_reserved_word :
    nextOf (runTxn (.wr 0 0x0120) State.reset) = some { State.reset with fault := 1#2 } := by decide

theorem test_rxLen_300 :
    nextOf (runTxn (scriptWrite .rxLen 300) { State.reset with fault := 1#2 }) = some { State.reset with fault := 3#2 } := by
  decide

theorem test_read_after_reset :
    (nextOf (runTxn (scriptRead .crcAcc) State.reset)).map (·.returned) = some [0xFFFFFFFF] ∧
    refusalOf (runTxn (scriptRead .nodeId) State.reset) = some (.invalidRead (.reg .nodeId)) := by decide

/-- The record registers of the shape not taken are invalid after an acceptance (section 2.5). -/
theorem test_read_record_after_accept :
    (((nextOf (exec .decode (toReceive s2))).map (runTxn (.rd 0x22))).bind nextOf).map (·.returned) = some [0x7F] ∧
    ((nextOf (exec .decode (toReceive s2))).map (runTxn (.rd 0x18))).bind refusalOf =
      some (.invalidRead (.reg .recRssi)) := by decide +kernel

theorem test_access_violations :
    refusalOf (runTxn (scriptWrite .txLen 5) State.reset) = some (.readOnlyRegister .txLen) ∧
    refusalOf (runTxn (.wb .txbuf 0 0) State.reset) = some (.readOnlyBuffer .txbuf) ∧
    faultOf (runTxn (.rd 0x23) State.reset) = some (.noSuchRegister 0x23) ∧
    faultOf (runTxn (.wb .plbuf 255 0) State.reset) = some (.noSuchOffset .plbuf 255) ∧
    refusalOf (runTxn (scriptWrite .nodeId 0x10000) State.reset) = some (.overWideRegister .nodeId 0x10000) := by decide

theorem test_rdtx :
    (nextOf (runTxn .rdtx { State.reset with txbuf := cells [0xAB#8, 0xCD#8], txLen := 2#9 })).map (·.returned) =
      some [2, 0xAB, 0xCD] := by decide

theorem test_tx2rx :
    (nextOf (runTxn .tx2rx { State.reset with txbuf := cells s2, txLen := 14#9 })).map (fun t => (t.rxbuf, t.rxLen)) =
      some (cells s2, 14#9) := by decide +kernel

/-- Every opcode-table row, placed after reset, is what the next step runs (here one of each unit). -/
theorem test_placed :
    (nextOf (step (State.reset.withFetchWord 16 0x6102))).map (·.crcAcc) = some 0x174841BC#32 ∧
    (nextOf (step (State.reset.withFetchWord 16 0x0020))).map (·.encStatus) = some 2#3 ∧
    (nextOf (step (State.reset.withFetchWord 16 0x0030))).map (·.decStatus) = some 4#3 ∧
    (nextOf (step (State.reset.withFetchWord 112 0x00070000002B037F7F7F14FF92BD))).map (·.decStatus) = some 1#3 := by
  decide +kernel

/-! ### Witnesses: the hypotheses of the statements -/

theorem test_witness_StepRunsDecodedCommand :
    (scripted [.wr 0 0x6102]).script = [.wr 0 (0x6102#16).toNat] ∧ decode (.cmd 0x6102#16) = .ok (.crcByte 0x61#8) := by
  decide

theorem test_witness_StepRunsDecodedFrame :
    (scripted [.receive s2]).script = [.receive s2] ∧
    decode (.frame s2) = .ok (.frameAbsent 7#16 43#32 0x7F#8 0x7F#8 0x7F#8 0x14FF92BD#32) := by decide

theorem test_witness_PlacedInstructionRunsNext : decodeTableWord 16 0x6102 = some (.crcByte 0x61#8) := by decide

theorem test_witness_StepsRunScriptInOrder :
    ∃ t, runScript [scriptWrite .nodeId 7, scriptCmd (.crcByte 0x61#8)] { State.reset with script := [.reset] } = .next t :=
  ⟨_, rfl⟩

theorem test_witness_NoTransactionNoChange : State.reset.script = [] := rfl

theorem test_witness_EncodeOfDecode :
    decode (.cmd 0xFF02#16) = .ok (.crcByte 0xFF#8) ∧ ∃ i, decode (.frame s1) = .ok i := by
  exact ⟨by decide, .framePresent 7#16 42#32 0xC1#8 0x06#8 addr1 0x0FC0270A#32, by decide⟩

/-- S1 is a legal frame. -/
theorem test_s1_legal : LegalFrame s1 := by unfold LegalFrame; decide +kernel

/-- S2 is a legal frame. -/
theorem test_s2_legal : LegalFrame s2 := by unfold LegalFrame; decide +kernel

theorem test_witness_WellFormedFramesAreLegal : (∃ i, decode (.frame s2) = .ok i) ∧ LegalFrame s2 :=
  ⟨⟨.frameAbsent 7#16 43#32 0x7F#8 0x7F#8 0x7F#8 0x14FF92BD#32, by decide⟩, test_s2_legal⟩

/-- The boundaries of the four ranges of R15. -/
theorem test_witness_SignedByteTransforms :
    (∃ i : SByte, 0 ≤ i.val ∧ i.val = 127) ∧ (∃ i : SByte, i.val < 0 ∧ i.val = -1) ∧ (∃ i : SByte, i.val = -128) ∧
    (0x7F#8).toNat ≤ 127 ∧ 128 ≤ (0x80#8).toNat :=
  ⟨⟨⟨127, by decide⟩, by decide, rfl⟩, ⟨⟨-1, by decide⟩, by decide, rfl⟩, ⟨⟨-128, by decide⟩, rfl⟩, by decide, by decide⟩

theorem test_witness_CrcIsIncrementalAndAffine : p8.length = (oneBit 8 7 7).length := by decide

theorem test_witness_CrcCatchesEverySingleBit : 256 ≤ 256 ∧ 255 < 256 ∧ 7 < 8 := by decide

theorem test_witness_CrcCatchesEveryDoubleBit :
    ((15 = 10 ∨ 15 = 15) ∧ 14 < 15 ∧ 7 < 8 ∧ 6 < 8 ∧ ((14, 7) : Nat × Nat) ≠ (14, 6)) ∧
    ((10 = 10 ∨ 10 = 15) ∧ 0 < 10 ∧ 9 < 10 ∧ ((0, 0) : Nat × Nat) ≠ (9, 7)) := by decide

theorem test_witness_CrcByteAbsorbsImmediate : ({ State.reset with crcAcc := 0x174841BC#32 } : State).crcAcc = 0x174841BC#32 :=
  rfl

theorem test_witness_StreamingComputesCrc32 :
    (∀ x ∈ ([scriptCmd (.crcByte 0x61#8), scriptRead .crcOut, scriptCmd .encode] : List Txn),
      x ≠ .reset ∧ x ≠ scriptCmd .crcInit) ∧
    (∃ t, runScript [scriptCmd .crcInit, scriptCmd (.crcByte 0x61#8), scriptRead .crcOut, scriptCmd .encode] State.reset =
      .next t) ∧
    (∃ t, runScript [.reset, scriptCmd (.crcByte 0x61#8), scriptRead .crcOut, scriptCmd .encode] State.reset = .next t) :=
  ⟨by decide, ⟨_, rfl⟩, ⟨_, rfl⟩⟩

theorem test_witness_OnlyCrcCommandsChangeAccumulator :
    ∃ t, step (scripted [scriptCmd (.crcByte 0x61#8)]) = .next t ∧ t.crcAcc ≠ (scripted [scriptCmd (.crcByte 0x61#8)]).crcAcc :=
  ⟨{ State.reset with crcAcc := 0x174841BC#32 }, rfl, by decide⟩

theorem test_witness_PlPresentBuildsPayload : PresentOperandsAre measured 0xC1#8 0x06#8 addr1 := by
  unfold PresentOperandsAre; decide

theorem test_witness_PlAbsentBuildsPayload : sentinel.measNa = .defined 0x7F#8 := rfl

theorem test_witness_PlBuildSelectsByMeasFound :
    ({ measured with measFound := .defined 1#1 } : State).measFound = .defined 1#1 ∧
    PresentOperandsAre { measured with measFound := .defined 1#1 } 0xC1#8 0x06#8 addr1 ∧
    ({ sentinel with measFound := .defined 0#1 } : State).measFound = .defined 0#1 ∧
    ({ sentinel with measFound := .defined 0#1 } : State).measNa = .defined 0x7F#8 := by
  unfold PresentOperandsAre; decide

theorem test_witness_EncodeBuildsFrame :
    (p8.length = 8 ∧ (toSend 42#32 p8).plLen.toNat = p8.length ∧ HoldsBytes (toSend 42#32 p8).plbuf 0 p8 ∧
      (toSend 42#32 p8).nodeId = .defined 7#16 ∧ (toSend 42#32 p8).msgCnt = .defined 42#32) ∧
    (p3.length = 3 ∧ (toSend 43#32 p3).plLen.toNat = p3.length ∧ HoldsBytes (toSend 43#32 p3).plbuf 0 p3 ∧
      (toSend 43#32 p3).nodeId = .defined 7#16 ∧ (toSend 43#32 p3).msgCnt = .defined 43#32) :=
  ⟨⟨rfl, rfl, cells_holds p8, rfl, rfl⟩, ⟨rfl, rfl, cells_holds p3, rfl, rfl⟩⟩

/-- Lengths on both sides of the two legal ones, and the ends of the range. -/
theorem test_witness_EncodeRefusesOtherLengths :
    ∀ n ∈ ([0, 2, 4, 7, 9, 255] : List Nat),
      ({ State.reset with plLen := BitVec.ofNat 8 n } : State).plLen ≠ 3#8 ∧
      ({ State.reset with plLen := BitVec.ofNat 8 n } : State).plLen ≠ 8#8 := by decide

/-- The second and third clause of the same statement. -/
theorem test_witness_EncodeRefusesOtherLengths_status :
    (∃ t, exec .encode State.reset = .next t ∧ t.encStatus ≠ 1#3) ∧ ([] : List Byte).length ≠ 3 ∧
    ([] : List Byte).length ≠ 8 := ⟨⟨_, rfl, by decide⟩, by decide, by decide⟩

/-- Both sides of the equivalence occur: an operand missing, and none missing. -/
theorem test_witness_EncodeNeedsItsOperands :
    refusalOf (exec .encode { toSend 42#32 p3 with nodeId := .invalid }) = some (.invalidRead (.reg .nodeId)) ∧
    (nextOf (exec .encode (toSend 42#32 p3))).isSome = true := by decide +kernel

theorem test_witness_SizeErrorReachableOnlyByParameters :
    (List.replicate 250 (0#8 : Byte)).length ∉ ([3, 8] : List Nat) ∧
    encodeWith [3, 8] 13 7#16 42#32 p3 = .error .sizeError ∧ (∃ n ∈ ([3, 8] : List Nat), 11 + n > 13) ∧
    (nextOf (exec .encode State.reset)).isSome = true := by decide +kernel

theorem test_witness_EncodeFunctionLaws :
    ∃ f, encodeFrame 7#16 42#32 p8 = .ok f ∧ encodeFrame 7#16 42#32 p8 = .ok f := ⟨s1, by decide +kernel, by decide +kernel⟩

/-- Two states that agree on the inputs of `ENCODE` and differ elsewhere. -/
theorem test_witness_EncodeDependsOnItsInputsOnly :
    (toSend 42#32 p3).nodeId = ({ toSend 42#32 p3 with plbuf := cells (p3 ++ [1#8]), fault := 3#2 } : State).nodeId ∧
    (∀ k, k < 3 → (toSend 42#32 p3).plbuf.read k = (cells (p3 ++ [1#8])).read k) ∧
    ∃ t, exec .encode (toSend 42#32 p3) = .next t :=
  ⟨rfl, by decide, _, execEncode_legal (p := p3) (.inl rfl) rfl (cells_holds p3) rfl rfl⟩

/-- One byte sequence for each clause, at the boundary lengths 10, 11, 266 and 267, and the two legal lengths. -/
theorem test_witness_DecodeOutcomeByLength :
    (s1.take 10).length = 10 ∧
    ((s1.take 11).length = 11 ∧ (s1.take 11).length - 11 ≠ ((s1.take 11).getD 6 0#8).toNat) ∧
    (h0.length = 11 ∧ h0.length - 11 = (h0.getD 6 0#8).toNat) ∧
    (let f := (List.replicate 266 (0#8 : Byte)).set 6 0xFF#8
     f.length = 266 ∧ f.length - 11 = (f.getD 6 0#8).toNat) ∧
    (List.replicate 267 (0#8 : Byte)).length = 267 ∧
    (s2.length = 14 ∧ crc32 (slice s2 0 10) = unbe32 (slice s2 10 14)) ∧
    (s1.length = 19 ∧ crc32 (slice s1 0 15) = unbe32 (slice s1 15 19)) ∧
    crc32 (slice (s1.set 7 0xC0#8) 0 15) ≠ unbe32 (slice (s1.set 7 0xC0#8) 15 19) := by decide +kernel

theorem test_witness_LegalFramesAreTheAcceptedOnes : LegalFrame s1 ∧ ¬ LegalFrame h5 :=
  ⟨test_s1_legal, fun h => absurd h.1 (by decide)⟩

theorem test_witness_DecodeOfEncodedFrame : p3.length = 3 ∧ p8.length = 8 := by decide

theorem test_witness_OneFlippedBitIsRejected :
    LegalFrame s1 ∧ (6 < s1.length ∧ 7 < 8) ∧ (18 < s1.length ∧ (18 : Nat) ≠ 6) ∧ LegalFrame s2 ∧ 13 < s2.length :=
  ⟨test_s1_legal, by decide, by decide, test_s2_legal, by decide⟩

theorem test_witness_DemuxUndoesPayloadEncoder :
    (∃ b, demux 8 p8 = some b) ∧ (∃ b, demux 3 p3 = some b) ∧ demux 3 p8 = none ∧ demux 2 [0#8, 0#8] = none :=
  ⟨⟨.present ⟨-63, by decide⟩ 6#8 addr1, by decide⟩, ⟨.absent 0x7F#8 0x7F#8 0x7F#8, by decide⟩, by decide, by decide⟩

theorem test_witness_DecodeCommandIsDecodeFunction :
    (toReceive s1).rxLen.toNat = s1.length ∧ HoldsBytes (toReceive s1).rxbuf 0 s1 ∧
    (toReceive []).rxLen.toNat = ([] : List Byte).length ∧ HoldsBytes (toReceive []).rxbuf 0 [] ∧
    ∃ t, exec .decode State.reset = .next t ∧ t.decStatus ≠ 1#3 :=
  ⟨rfl, cells_holds s1, rfl, cells_holds [], _, rfl, by decide⟩

/-- Lengths 10 and 11, and 16; only the header is defined. -/
theorem test_witness_DecodeReadsOnlyWhatItsStepsNeed :
    ({ State.reset with rxLen := 10#9 } : State).rxLen.toNat < 11 ∧
    (11 ≤ ({ State.reset with rxLen := 11#9, rxbuf := cells (s1.take 7) } : State).rxLen.toNat ∧
      11 - 11 ≠ ((s1.take 7).getD 6 0#8).toNat) ∧
    (11 ≤ ({ State.reset with rxLen := 16#9, rxbuf := cells (h5.take 7) } : State).rxLen.toNat ∧
      16 - 11 = ((h5.take 7).getD 6 0#8).toNat) ∧
    (s1.take 7).length = 7 ∧ (h5.take 7).length = 7 ∧ HoldsBytes (cells (s1.take 7)) 0 (s1.take 7) ∧
    HoldsBytes (cells (h5.take 7)) 0 (h5.take 7) :=
  ⟨by decide, by decide, by decide, by decide, by decide, cells_holds _, cells_holds _⟩

/-- Both sides of the equivalence: a header byte missing, the last byte missing, and none missing (at lengths 10, 11, 19). -/
theorem test_witness_DecodeRefusal :
    refusalOf (exec .decode { State.reset with rxLen := 11#9 }) = some (.invalidRead (.byte .rxbuf 0)) ∧
    refusalOf (exec .decode { toReceive (s1.take 18) with rxLen := 19#9 }) = some (.invalidRead (.byte .rxbuf 18)) ∧
    (nextOf (exec .decode { State.reset with rxLen := 10#9 })).isSome = true ∧
    (nextOf (exec .decode { toReceive (s1.take 7) with rxLen := 11#9 })).isSome = true ∧
    (nextOf (exec .decode (toReceive s1))).isSome = true := by decide +kernel

/-- Two states that agree on the inputs of `DECODE` and differ elsewhere. -/
theorem test_witness_DecodeDependsOnItsInputsOnly :
    (toReceive h5).rxLen = ({ toReceive h5 with rxbuf := cells (h5 ++ [1#8]), fault := 3#2 } : State).rxLen ∧
    (∀ k, k < 16 → (toReceive h5).rxbuf.read k = (cells (h5 ++ [1#8])).read k) ∧
    ∃ t, exec .decode (toReceive h5) = .next t :=
  ⟨rfl, by decide, _, execDecode_of_holds (raw := h5) rfl (cells_holds h5)⟩

/-- Both sides of the length limit of R77. -/
theorem test_witness_ReceiveIsLoadThenDecode :
    (List.replicate 256 (0#8 : Byte)).length ≤ 256 ∧ 256 < (List.replicate 257 (0#8 : Byte)).length := by decide +kernel

theorem test_witness_LoopBackRecoversThePacket :
    p8.length = 8 ∧ (toSend 42#32 p8).plLen.toNat = p8.length ∧ HoldsBytes (toSend 42#32 p8).plbuf 0 p8 ∧
    (toSend 42#32 p8).nodeId = .defined 7#16 ∧ (toSend 42#32 p8).msgCnt = .defined 42#32 :=
  ⟨rfl, rfl, cells_holds p8, rfl, rfl⟩

theorem test_witness_OtherInstanceAcceptsEncodedFrame :
    ∃ t f, exec .encode (toSend 42#32 p8) = .next t ∧ t.encStatus = 1#3 ∧ HoldsExactly t.txbuf f :=
  ⟨_, frameOf 7#16 42#32 p8, execEncode_legal (p := p8) (.inr rfl) rfl (cells_holds p8) rfl rfl, rfl,
    holdsExactly_writeBytes_below _ _⟩

/-- An unassigned opcode, an immediate where none is allowed, and a step from a state whose `ILLCMD` is set. -/
theorem test_witness_ReservedWordSetsIllCmdOnly :
    ReservedWord 0x00FF#16 ∧ ReservedWord 0x0100#16 ∧ ¬ ReservedWord 0xFF02#16 ∧
    ∃ t, step { scripted [scriptRead .fault] with fault := 1#2 } = .next t ∧
      ({ scripted [scriptRead .fault] with fault := 1#2 } : State).fault.getLsbD 0 = true := by
  refine ⟨by unfold ReservedWord; decide, by unfold ReservedWord; decide, by unfold ReservedWord; decide, _, rfl, by decide⟩

/-- The boundary values of the three ranges. -/
theorem test_witness_RxLenTakesAtMost256 :
    256 ≤ 256 ∧ (257 ≤ 257 ∧ 257 ≤ 511) ∧ (257 ≤ 511 ∧ 511 ≤ 511) ∧ 512 ≤ 512 := by decide

/-- The greatest value of each width, and of the narrowest and the widest register. -/
theorem test_witness_HostWriteThenRead :
    1 < 2 ^ 1 ∧ 255 < 2 ^ 8 ∧ 65535 < 2 ^ 16 ∧ 0xFFFFFFFF < 2 ^ 32 ∧
    (regAccess .measFound = .rw ∧ Reg.measFound ≠ .rxLen ∧ 1 < 2 ^ regWidth .measFound) ∧
    (regAccess .msgCnt = .rw ∧ Reg.msgCnt ≠ .rxLen ∧ 0xFFFFFFFF < 2 ^ regWidth .msgCnt) := by decide

/-- A state with a frame in `TXBUF`, a record in the registers and a command to run. -/
def busy : State :=
  { toReceive s2 with
    txbuf := cells s1, txLen := 19#9, encStatus := 1#3, decStatus := 1#3
    recNodeId := .defined 7#16, recMsgCnt := .defined 43#32, recShape := .defined 0#1
    recSent0 := .defined 0x7F#8, recSent1 := .defined 0x7F#8, recSent2 := .defined 0x7F#8
    script := [scriptCmd .decode] }

/-- A field that is defined and one that is invalid; after an accepted frame, a record register of each shape. -/
theorem test_witness_HostReadReturnsAndChangesNothing :
    (toSend 42#32 p3).nodeId = .defined 7#16 ∧ State.reset.nodeId = .invalid ∧
    busy.recSent2 = .defined 0x7F#8 ∧ busy.recRssi = .invalid := ⟨rfl, rfl, rfl, rfl⟩

/-- The last offset of each buffer; a defined byte and an invalid one. -/
theorem test_witness_BufferByteWriteAndRead :
    254 < bufSize .plbuf ∧ 255 < bufSize .rxbuf ∧ 255 < bufSize .txbuf ∧
    ((toReceive s2).buf .rxbuf).read 13 = some 0xBD#8 ∧ ((toReceive s2).buf .rxbuf).read 14 = none := by decide

/-- The boundary of each range, and a register of each access right. -/
theorem test_witness_AccessViolationsStop :
    regAccess .fault = .r ∧ (regAccess .cmd ≠ .r ∧ 2 ^ regWidth .cmd ≤ 0x10000) ∧
    (regAccess .rxLen ≠ .r ∧ 2 ^ regWidth .rxLen ≤ 512) ∧ 0x22 < 0x23 ∧ bufSize .plbuf ≤ 255 ∧ bufSize .rxbuf ≤ 256 ∧
    255 < 256 ∧ 256 ≤ 256 := by decide

theorem test_witness_CommandsLeaveInputsAlone :
    (∃ t, exec .encode (toSend 42#32 p3) = .next t) ∧ (∃ w, encode .encode = .cmd w) :=
  ⟨⟨_, execEncode_legal (p := p3) (.inl rfl) rfl (cells_holds p3) rfl rfl⟩, _, rfl⟩

/-- The two ways a bit of `FAULT` gets set. -/
theorem test_witness_FaultBitsAreSticky :
    (∃ t, step (scripted [.wr 0 0x00FF]) = .next t ∧ t.fault ≠ 0#2) ∧
    (∃ t, step (scripted [scriptWrite .rxLen 257]) = .next t ∧ t.fault ≠ 0#2) :=
  ⟨⟨{ State.reset with fault := 1#2 }, rfl, by decide⟩, ⟨{ State.reset with fault := 2#2 }, rfl, by decide⟩⟩

theorem test_witness_OnlyEncodeChangesTheFrame :
    (∃ t, step (scripted [scriptCmd .decode]) = .next t) ∧ scriptCmd .decode ≠ .reset ∧
    scriptCmd .decode ≠ scriptCmd .encode := ⟨⟨_, rfl⟩, by decide, by decide⟩

theorem test_witness_OnlyDecodeChangesTheRecord :
    (∃ t, step (scripted [scriptCmd .encode]) = .next t) ∧ scriptCmd .encode ≠ .reset ∧
    scriptCmd .encode ≠ scriptCmd .decode ∧ ∀ raw, scriptCmd .encode ≠ .receive raw :=
  ⟨⟨_, rfl⟩, by decide, by decide, by intro raw h; cases h⟩

theorem test_witness_EveryStepKeepsTheInvariant : Inv busy ∧ ∃ t, step busy = .next t := by
  refine ⟨⟨⟨by decide, by decide, by decide, by decide, by decide, by decide, by decide⟩,
    .inl ⟨rfl, s1, test_s1_legal, rfl, holdsExactly_writeBytes_nil s1⟩, .inl ⟨rfl, ⟨7#16, 43#32, .absent 0x7F#8 0x7F#8 0x7F#8⟩, ?_⟩⟩,
    _, (step_cons (s := busy) (x := scriptCmd .decode) (rest := []) rfl).trans
      ((runTxn_scriptCmd (i := .decode) (withScript [] busy) rfl (by decide)).trans
        (execDecode_of_holds (s := withScript [] busy) (raw := s2) rfl (cells_holds s2)))⟩
  simp [HoldsRecord, HoldsBody, busy, toReceive, State.reset]

end Sys2Proof.Tests
end

section
/-!
PROOFS. Big-endian pack and unpack (R14), the signed bytes (R15).
-/

namespace Sys2Proof.Machine

/-- The digit of weight `2 ^ k`, as R14 writes it. -/
theorem extract_byte_eq_ofNat {w : Nat} (v : BitVec w) (k : Nat) :
    v.extractLsb' k 8 = BitVec.ofNat 8 (v.toNat / 2 ^ k) := by
  apply BitVec.eq_of_toNat_eq
  rw [toNat_extract_byte, BitVec.toNat_ofNat]

theorem be16_eq_digits (v : Half) : be16 v = [BitVec.ofNat 8 (v.toNat / 256), BitVec.ofNat 8 v.toNat] := by
  simp only [be16, extract_byte_eq_ofNat, Nat.reducePow, Nat.div_one]

theorem be32_eq_digits (v : Word) :
    be32 v = [BitVec.ofNat 8 (v.toNat / 2 ^ 24), BitVec.ofNat 8 (v.toNat / 2 ^ 16),
      BitVec.ofNat 8 (v.toNat / 2 ^ 8), BitVec.ofNat 8 v.toNat] := by
  simp only [be32, extract_byte_eq_ofNat, pow_zero, Nat.div_one]

/-- Settles O11: each packed byte is a base-256 digit of the value, and the unpacked value is the sum of its digits. -/
theorem bigEndianPackAndUnpack : Obligations.BigEndianPackAndUnpack :=
  ⟨be16_eq_digits, be32_eq_digits, toNat_unbe16, toNat_unbe32, unbe16_be16, unbe32_be32⟩

theorem toNat_twos8_of_nonneg {i : SByte} (h : 0 ≤ i.val) : ((twos8 i).toNat : Int) = i.val := by
  have := i.property.2
  rw [toNat_twos8, Int.emod_eq_of_lt h (by omega)]

theorem toNat_twos8_of_neg {i : SByte} (h : i.val < 0) : ((twos8 i).toNat : Int) = i.val + 256 := by
  have := i.property.1
  rw [toNat_twos8, ← Int.add_emod_right, Int.emod_eq_of_lt (by omega) (by omega)]

theorem sint8_val_of_le {b : Byte} (h : b.toNat ≤ 127) : (sint8 b).val = b.toNat := by
  rw [sint8_val, if_pos h]

theorem sint8_val_of_ge {b : Byte} (h : 128 ≤ b.toNat) : (sint8 b).val = (b.toNat : Int) - 256 := by
  rw [sint8_val, if_neg (by omega)]

/-- Settles O12: each transform is the identity on one half of its domain and a shift by 256 on the other. -/
theorem signedByteTransforms : Obligations.SignedByteTransforms :=
  ⟨fun i => ⟨toNat_twos8_of_nonneg, toNat_twos8_of_neg, sint8_twos8 i⟩,
    fun b => ⟨sint8_val_of_le, sint8_val_of_ge, twos8_sint8 b⟩⟩

end Sys2Proof.Machine
end

section
/-!
PROOFS. A transaction that presents a code runs its instruction (R23, R40), and the code of a command is the word it was
decoded from.
-/

namespace Sys2Proof.Machine

theorem runTxn_present {c : Code} {i : Instr} (s : State) (h : decode c = .ok i) : runTxn (present c) s = exec i s := by
  cases c with
  | cmd w => exact (hostWrite_cmd w s).trans (writeCommand_ok s h)
  | frame raw => rw [present, runTxn, receiveLine, h]

/-- Settles O1: the transaction presents the word. -/
theorem stepRunsDecodedCommand : Obligations.StepRunsDecodedCommand := by
  intro s w i rest hs hd
  rw [step_cons hs]
  exact runTxn_present (c := .cmd w) _ hd

theorem decode_of_decodeTableWord {nbits w : Nat} {i : Instr} (h : decodeTableWord nbits w = some i) :
    decode (codeOfTableWord nbits w) = .ok i := by
  unfold decodeTableWord at h
  split at h
  · rename_i j hj
    cases h; exact hj
  · cases h

/-- Settles O3: the placed transaction presents the table's code, and taking it gives the state back. -/
theorem placedInstructionRunsNext : Obligations.PlacedInstructionRunsNext := by
  intro s nbits w i hd
  have hs : (s.withFetchWord nbits w).script = present (codeOfTableWord nbits w) :: s.script := rfl
  rw [step_cons hs]
  exact runTxn_present s (decode_of_decodeTableWord hd)

theorem encode_of_decode_cmd {w : Half} {i : Instr} (h : decode (.cmd w) = .ok i) : encode i = .cmd w := by
  obtain ⟨h2, rfl⟩ | ⟨-, h0, hp⟩ := decodeWord_eq_ok h
  · rw [encode, ← h2, commandWord_fields]
  · have hw : w = commandWord 0#8 (opcodeOf w) := h0 ▸ (commandWord_fields w).symm
    obtain ⟨ho, rfl⟩ | ⟨ho, rfl⟩ | ⟨ho, rfl⟩ | ⟨ho, rfl⟩ | ⟨ho, rfl⟩ | ⟨ho, rfl⟩ | ⟨ho, rfl⟩ := plainCommand_eq_some hp <;>
      rw [hw, ho] <;> rfl

/-- A host write of a word that decodes is the command's own line of a script (R101). -/
theorem wr_eq_scriptCmd {w : Half} {i : Instr} (h : decode (.cmd w) = .ok i) : Txn.wr 0 w.toNat = scriptCmd i := by
  rw [scriptCmd, commandOf, encode_of_decode_cmd h]; rfl

theorem not_mem_opcodes_of_plainCommand_eq_none {op : Byte} (h2 : op ≠ 0x02#8) (h : plainCommand op = none) :
    op ∉ opcodes := by
  unfold plainCommand at h
  split_ifs at h
  simp [opcodes, *]

theorem reservedWord_of_decode_error {w : Half} {e : Reject} (h : decode (.cmd w) = .error e) : ReservedWord w := by
  rw [decode, decodeWord] at h
  by_cases h2 : opcodeOf w = 0x02#8
  · rw [if_pos h2] at h; cases h
  · rw [if_neg h2] at h
    cases hp : plainCommand (opcodeOf w) with
    | none => exact .inl (not_mem_opcodes_of_plainCommand_eq_none h2 hp)
    | some i =>
      rw [hp] at h; simp only at h
      split_ifs at h with h0
      exact .inr ⟨h2, h0⟩

end Sys2Proof.Machine
end

section
/-!
PROOFS. What each instruction and each transaction may write, the unit's outputs alone; from it, what only one of them
changes (R24, R25, R33, R35, R49).
-/

namespace Sys2Proof.Machine

/-- What an instruction that completes may write: the outputs of its own unit (R49). -/
inductive InstrWrites (i : Instr) (s t : State) : Prop where
  | nothing (ht : t = s)
  | accumulator (hi : i = .crcInit ∨ ∃ b, i = .crcByte b) (ht : t = { s with crcAcc := t.crcAcc })
  | payload (hi : i = .plPresent ∨ i = .plAbsent ∨ i = .plBuild) (ht : OnlyPayloadChanged s t)
  | frame (hi : i = .encode) (ht : OnlyEncoderChanged s t)
  | record (hi : i = .decode) (ht : OnlyDecoderChanged s t)
  | received (raw : List Byte) (hi : encode i = .frame raw) (ht : OnlyDecoderChanged (loaded raw s) t)

theorem onlyPayloadChanged_of_stored {P : List Byte → Prop} {x : Result} {s t : State}
    (hx : (∃ p, P p ∧ x = .next (payloadStored p s)) ∨ ∃ loc, x = .refused (.invalidRead loc)) (h : x = .next t) :
    OnlyPayloadChanged s t := by
  obtain ⟨p, -, h1⟩ | ⟨loc, h1⟩ := hx <;> rw [h1] at h <;> cases h
  rfl

theorem execEncode_onlyEncoder {s t : State} (h : execEncode s = .next t) : OnlyEncoderChanged s t := by
  obtain ⟨-, h1⟩ | ⟨n, c, p, -, -, -, -, -, h1⟩ | ⟨-, -, loc, h1⟩ := execEncode_cases s <;> rw [h1] at h <;> cases h
  · exact raise_onlyEncoder rfl s
  · rfl

theorem execDecode_onlyDecoder {s t : State} (h : execDecode s = .next t) : OnlyDecoderChanged s t := by
  obtain ⟨e, he, rfl⟩ | ⟨raw, v, -, rfl⟩ := decode_effect h
  · exact raise_onlyDecoder he s
  · exact putRecord_onlyDecoder v s

theorem receiveRaw_onlyDecoder {raw : List Byte} {s t : State} (h : receiveRaw raw s = .next t) :
    OnlyDecoderChanged (loaded raw s) t := by
  obtain ⟨-, ⟨e, he, rfl⟩ | ⟨v, -, rfl⟩⟩ := receiveRaw_effect h
  · exact raise_onlyDecoder he _
  · exact putRecord_onlyDecoder v _

theorem exec_writes {i : Instr} {s t : State} (h : exec i s = .next t) : InstrWrites i s t := by
  cases i with
  | nop => cases h; exact .nothing rfl
  | crcInit => cases h; exact .accumulator (.inl rfl) rfl
  | crcByte b => cases h; exact .accumulator (.inr ⟨b, rfl⟩) rfl
  | plPresent => exact .payload (.inl rfl) (onlyPayloadChanged_of_stored (buildPresent_cases s) h)
  | plAbsent => exact .payload (.inr (.inl rfl)) (onlyPayloadChanged_of_stored (buildAbsent_cases s) h)
  | plBuild => exact .payload (.inr (.inr rfl)) (onlyPayloadChanged_of_stored (execPlBuild_cases s) h)
  | encode => exact .frame rfl (execEncode_onlyEncoder h)
  | decode => exact .record rfl (execDecode_onlyDecoder h)
  | frameAbsent n c x y z k => exact .received _ rfl (receiveRaw_onlyDecoder h)
  | framePresent n c r g a k => exact .received _ rfl (receiveRaw_onlyDecoder h)

/-! ### What an instruction leaves alone -/

/-- From `s` to `t` `FAULT`, the command operands the host alone writes and the host's own lists are kept. -/
def InputsKept (s t : State) : Prop :=
  t = { t with
    fault := s.fault, measFound := s.measFound, rssi := s.rssi, chan := s.chan, bssid0 := s.bssid0,
    bssid1 := s.bssid1, bssid2 := s.bssid2, bssid3 := s.bssid3, bssid4 := s.bssid4, bssid5 := s.bssid5,
    measNa := s.measNa, nodeId := s.nodeId, msgCnt := s.msgCnt, script := s.script, returned := s.returned }

theorem InstrWrites.inputsKept {i : Instr} {s t : State} (h : InstrWrites i s t) : InputsKept s t := by
  cases h with
  | nothing ht => rw [ht]; rfl
  | accumulator _ ht => rw [ht]; rfl
  | payload _ ht => rw [ht]; rfl
  | frame _ ht => rw [ht]; rfl
  | record _ ht => rw [ht]; rfl
  | received raw _ ht => rw [ht]; rfl

theorem InstrWrites.rx_eq {i : Instr} {s t : State} {w : Half} (h : InstrWrites i s t) (hw : encode i = .cmd w) :
    t.rxLen = s.rxLen ∧ t.rxbuf = s.rxbuf := by
  cases h with
  | nothing ht => rw [ht]; exact ⟨rfl, rfl⟩
  | accumulator _ ht => rw [ht]; exact ⟨rfl, rfl⟩
  | payload _ ht => rw [ht]; exact ⟨rfl, rfl⟩
  | frame _ ht => rw [ht]; exact ⟨rfl, rfl⟩
  | record _ ht => rw [ht]; exact ⟨rfl, rfl⟩
  | received raw hi _ => rw [hi] at hw; cases hw

/-- Settles O54: each instruction writes its own unit's outputs alone, and the frame rows `RX_LEN` and `RXBUF` too. -/
theorem commandsLeaveInputsAlone : Obligations.CommandsLeaveInputsAlone := by
  intro i s t h
  have hpl : i = .encode ∨ i = .decode → t.plLen = s.plLen ∧ t.plbuf = s.plbuf := by
    rintro (rfl | rfl)
    · rw [execEncode_onlyEncoder h]; exact ⟨rfl, rfl⟩
    · rw [execDecode_onlyDecoder h]; exact ⟨rfl, rfl⟩
  have hrx : (∃ w, encode i = .cmd w) → t.rxLen = s.rxLen ∧ t.rxbuf = s.rxbuf :=
    fun ⟨_, hw⟩ => (exec_writes h).rx_eq hw
  rw [(exec_writes h).inputsKept]
  exact ⟨rfl, rfl, rfl, rfl, rfl, rfl, rfl, rfl, rfl, rfl, rfl, rfl, rfl, rfl, rfl, hrx, hpl⟩

/-! ### What a transaction may write -/

/-- From `s` to `t` nothing changed but what the host itself writes and what it has read (R192 to R194). -/
def OnlyHostWrote (s t : State) : Prop :=
  t = { s with
    measFound := t.measFound, rssi := t.rssi, chan := t.chan, bssid0 := t.bssid0, bssid1 := t.bssid1,
    bssid2 := t.bssid2, bssid3 := t.bssid3, bssid4 := t.bssid4, bssid5 := t.bssid5, measNa := t.measNa,
    nodeId := t.nodeId, msgCnt := t.msgCnt, plLen := t.plLen, rxLen := t.rxLen,
    plbuf := t.plbuf, rxbuf := t.rxbuf, returned := t.returned }

/-- What a transaction that completes may write. -/
inductive TxnWrites (x : Txn) (s t : State) : Prop where
  | command (i : Instr) (w : Half) (hi : encode i = .cmd w) (hx : x = scriptCmd i) (hw : InstrWrites i s t)
  | reservedWord (w : Half) (hw : ReservedWord w) (hx : x = .wr 0 w.toNat) (ht : t = setIllCmd s)
  | overRangeRxLen (v : Nat) (h257 : 257 ≤ v) (h511 : v ≤ 511) (hx : x = scriptWrite .rxLen v) (ht : t = setIllLen s)
  | host (ht : OnlyHostWrote s t)
  | reset (hx : x = .reset) (ht : t = applyReset s)
  | received (raw : List Byte) (hx : x = .receive raw) (ht : OnlyDecoderChanged (loaded raw s) t)

theorem storeRxLen_of_le {v : Nat} (s : State) (h : v ≤ 256) : storeRxLen v s = { s with rxLen := BitVec.ofNat 9 v } :=
  if_pos h

theorem storeRxLen_of_gt {v : Nat} (s : State) (h : 256 < v) : storeRxLen v s = setIllLen s := if_neg (by simpa using h)

/-- A store writes the register it names, or is the dropped one of R34. -/
theorem storeReg_writes {r : Reg} {v : Nat} (s : State) (hv : v < 2 ^ regWidth r) :
    OnlyHostWrote s (storeReg r v s) ∨ (r = .rxLen ∧ 257 ≤ v ∧ v ≤ 511 ∧ storeReg r v s = setIllLen s) := by
  cases r with
  | rxLen =>
    by_cases h : v ≤ 256
    · rw [storeReg, storeRxLen_of_le s h]; exact .inl rfl
    · exact .inr ⟨rfl, by omega, Nat.le_of_lt_succ hv, storeRxLen_of_gt s (by omega)⟩
  | _ => exact .inl rfl

theorem runTxn_writes {x : Txn} {s t : State} (h : runTxn x s = .next t) : TxnWrites x s t := by
  obtain ⟨w, i, rfl, hd, he⟩ | ⟨w, e, rfl, hd, rfl⟩ | ⟨r, v, rfl, -, hv, rfl⟩ | ⟨vs, -, rfl⟩ |
    ⟨b, k, v, -, hb, -, rfl⟩ | ⟨rfl, rfl⟩ | ⟨-, -, m, vs, rfl, -, -⟩ | ⟨raw, rfl, he⟩ := runTxn_cases h
  · exact .command i w (encode_of_decode_cmd hd) (wr_eq_scriptCmd hd) (exec_writes he)
  · exact .reservedWord w (reservedWord_of_decode_error hd) rfl rfl
  · obtain hs | ⟨rfl, h257, h511, hs⟩ := storeReg_writes s hv
    · exact .host hs
    · exact .overRangeRxLen v h257 h511 rfl hs
  · exact .host rfl
  · cases b with
    | plbuf => exact .host rfl
    | txbuf => exact absurd rfl hb
    | rxbuf => exact .host rfl
  · exact .reset rfl rfl
  · exact .host rfl
  · exact .received raw rfl (receiveRaw_onlyDecoder he)

theorem step_writes {s t : State} {x : Txn} {rest : List Txn} (hs : s.script = x :: rest) (h : step s = .next t) :
    TxnWrites x (withScript rest s) t := runTxn_writes ((step_cons hs).symm.trans h)

/-! ### What only one of them changes -/

theorem TxnWrites.crcAcc_eq {x : Txn} {s t : State} (h : TxnWrites x s t) :
    t.crcAcc = s.crcAcc ∨ x = .reset ∨ x = scriptCmd .crcInit ∨ ∃ b, x = scriptCmd (.crcByte b) := by
  cases h with
  | command i w _ hx hw =>
    cases hw with
    | nothing ht => rw [ht]; exact .inl rfl
    | accumulator hi _ =>
      obtain rfl | ⟨b, rfl⟩ := hi
      · exact .inr (.inr (.inl hx))
      · exact .inr (.inr (.inr ⟨b, hx⟩))
    | payload _ ht => rw [ht]; exact .inl rfl
    | frame _ ht => rw [ht]; exact .inl rfl
    | record _ ht => rw [ht]; exact .inl rfl
    | received raw _ ht => rw [ht]; exact .inl rfl
  | reservedWord w _ _ ht => rw [ht]; exact .inl rfl
  | overRangeRxLen v _ _ _ ht => rw [ht]; exact .inl rfl
  | host ht => rw [ht]; exact .inl rfl
  | reset hx _ => exact .inr (.inl hx)
  | received raw _ ht => rw [ht]; exact .inl rfl

/-- Settles O21: of all writes only the CRC unit's and reset's name `CRC_ACC`. -/
theorem onlyCrcCommandsChangeAccumulator : Obligations.OnlyCrcCommandsChangeAccumulator :=
  fun _ _ _ _ hs h hne => (step_writes hs h).crcAcc_eq.resolve_left hne

theorem TxnWrites.fault_eq {x : Txn} {s t : State} (h : TxnWrites x s t) (hr : x ≠ .reset) :
    t.fault = s.fault ∨ (∃ w : Half, ReservedWord w ∧ x = .wr 0 w.toNat ∧ t.fault = s.fault ||| 1#2) ∨
      ∃ v, 257 ≤ v ∧ v ≤ 511 ∧ x = scriptWrite .rxLen v ∧ t.fault = s.fault ||| 2#2 := by
  cases h with
  | command i w _ _ hw => rw [hw.inputsKept]; exact .inl rfl
  | reservedWord w hw hx ht => rw [ht]; exact .inr (.inl ⟨w, hw, hx, rfl⟩)
  | overRangeRxLen v h257 h511 hx ht => rw [ht]; exact .inr (.inr ⟨v, h257, h511, hx, rfl⟩)
  | host ht => rw [ht]; exact .inl rfl
  | reset hx _ => exact absurd hx hr
  | received raw _ ht => rw [ht]; exact .inl rfl

theorem and_or_absorb {w : Nat} (x y : BitVec w) : x &&& (x ||| y) = x := by
  ext k
  simpa using Or.inl

/-- Settles O56: both writes of `FAULT` but reset's set a bit by `or`. -/
theorem faultBitsAreSticky : Obligations.FaultBitsAreSticky := by
  intro s t h rest hs hr hst
  have hf : t.fault = s.fault ∨ _ := (step_writes hs hst).fault_eq hr
  refine ⟨?_, hf.resolve_left⟩
  obtain hf | ⟨w, -, -, hf⟩ | ⟨v, -, -, -, hf⟩ := hf <;> rw [hf]
  · exact BitVec.and_self
  · exact and_or_absorb _ _
  · exact and_or_absorb _ _

theorem TxnWrites.frame_eq {x : Txn} {s t : State} (h : TxnWrites x s t) (hr : x ≠ .reset)
    (he : x ≠ scriptCmd .encode) : t.txbuf = s.txbuf ∧ t.txLen = s.txLen ∧ t.encStatus = s.encStatus := by
  cases h with
  | command i w _ hx hw =>
    cases hw with
    | nothing ht => rw [ht]; exact ⟨rfl, rfl, rfl⟩
    | accumulator _ ht => rw [ht]; exact ⟨rfl, rfl, rfl⟩
    | payload _ ht => rw [ht]; exact ⟨rfl, rfl, rfl⟩
    | frame hi _ => exact absurd (hi ▸ hx) he
    | record _ ht => rw [ht]; exact ⟨rfl, rfl, rfl⟩
    | received raw _ ht => rw [ht]; exact ⟨rfl, rfl, rfl⟩
  | reservedWord w _ _ ht => rw [ht]; exact ⟨rfl, rfl, rfl⟩
  | overRangeRxLen v _ _ _ ht => rw [ht]; exact ⟨rfl, rfl, rfl⟩
  | host ht => rw [ht]; exact ⟨rfl, rfl, rfl⟩
  | reset hx _ => exact absurd hx hr
  | received raw _ ht => rw [ht]; exact ⟨rfl, rfl, rfl⟩

/-- Settles O57: of all writes only `ENCODE`'s and reset's name the encoder's outputs. -/
theorem onlyEncodeChangesTheFrame : Obligations.OnlyEncodeChangesTheFrame :=
  fun _ _ _ _ hs h hr he => (step_writes hs h).frame_eq hr he

/-- From `s` to `t` `DEC_STATUS` and the record registers are kept. -/
def DecoderKept (s t : State) : Prop :=
  t = { t with
    decStatus := s.decStatus, recNodeId := s.recNodeId, recMsgCnt := s.recMsgCnt, recShape := s.recShape,
    recRssi := s.recRssi, recChan := s.recChan,
    recBssid0 := s.recBssid0, recBssid1 := s.recBssid1, recBssid2 := s.recBssid2,
    recBssid3 := s.recBssid3, recBssid4 := s.recBssid4, recBssid5 := s.recBssid5,
    recSent0 := s.recSent0, recSent1 := s.recSent1, recSent2 := s.recSent2 }

theorem TxnWrites.decoderKept {x : Txn} {s t : State} (h : TxnWrites x s t) (hr : x ≠ .reset)
    (hd : x ≠ scriptCmd .decode) (hv : ∀ raw, x ≠ .receive raw) : DecoderKept s t := by
  cases h with
  | command i w hi hx hw =>
    cases hw with
    | nothing ht => rw [ht]; rfl
    | accumulator _ ht => rw [ht]; rfl
    | payload _ ht => rw [ht]; rfl
    | frame _ ht => rw [ht]; rfl
    | record hi _ => exact absurd (hi ▸ hx) hd
    | received raw hf _ => rw [hf] at hi; cases hi
  | reservedWord w _ _ ht => rw [ht]; rfl
  | overRangeRxLen v _ _ _ ht => rw [ht]; rfl
  | host ht => rw [ht]; rfl
  | reset hx _ => exact absurd hx hr
  | received raw hx _ => exact absurd hx (hv raw)

/-- Settles O58: of all writes only the decoder's, `DECODE`'s own or a received sequence's, and reset's name the record. -/
theorem onlyDecodeChangesTheRecord : Obligations.OnlyDecodeChangesTheRecord := by
  intro s t h rest hs hst hr hd hv
  rw [(step_writes hs hst).decoderKept hr hd hv]
  exact ⟨rfl, rfl, rfl, rfl, rfl, rfl, rfl, rfl, rfl, rfl, rfl, rfl, rfl, rfl, rfl⟩

end Sys2Proof.Machine
end

section
/-!
PROOFS. Every transaction keeps the invariant: the encoder's part, the decoder's part and the buffers' part (R32 to R35,
R60, R221).
-/

namespace Sys2Proof.Machine

/-! ### The encoder's outputs -/

theorem raise_formatError_holdsExactly (s : State) : HoldsExactly (raise .formatError s).txbuf [] :=
  holdsExactly_below_zero _

theorem framePut_holdsExactly (f : List Byte) (s : State) : HoldsExactly (framePut f s).txbuf f :=
  holdsExactly_writeBytes_below _ _

theorem framePut_txLen {f : List Byte} (s : State) (h : f.length ≤ 256) : (framePut f s).txLen.toNat = f.length := by
  simp only [framePut, BitVec.toNat_ofNat]; omega

/-- `ENCODE` leaves a legal frame or none, whatever was there before. -/
theorem execEncode_encoderInv {s t : State} (h : execEncode s = .next t) : EncoderInv t := by
  obtain ⟨-, h1⟩ | ⟨n, c, p, hp, -, -, -, -, h1⟩ | ⟨-, -, loc, h1⟩ := execEncode_cases s <;> rw [h1] at h <;> cases h
  · exact .inr ⟨.inr rfl, rfl, raise_formatError_holdsExactly s⟩
  · have hl : (frameOf n c p).length ≤ 256 := by rw [frameOf_length]; omega
    exact .inl ⟨rfl, _, legalFrame_frameOf n c hp, framePut_txLen s hl, framePut_holdsExactly _ s⟩

theorem encoderInv_applyReset (s : State) : EncoderInv (applyReset s) := .inr ⟨.inl rfl, rfl, holdsExactly_nil⟩

theorem runTxn_keeps_encoderInv {x : Txn} {s t : State} (h : runTxn x s = .next t) (hs : EncoderInv s) :
    EncoderInv t := by
  by_cases hr : x = .reset
  · subst hr; cases h; exact encoderInv_applyReset s
  by_cases he : x = scriptCmd .encode
  · subst he
    rw [runTxn_scriptCmd (i := .encode) s rfl rfl] at h
    exact execEncode_encoderInv h
  · obtain ⟨hb, hl, hst⟩ := (runTxn_writes h).frame_eq hr he
    rw [EncoderInv, hb, hl, hst]
    exact hs

/-! ### The decoder's outputs -/

theorem raise_decoderInv {e : Err} (he : e.raisedBy = .decoder) (s : State) : DecoderInv (raise e s) := by
  rw [raise_decoder he]
  exact .inr ⟨.inr ⟨e, he, rfl⟩, clearRecord_noRecord _⟩

theorem putRecord_decoderInv {raw : List Byte} {v : Valid} (hv : parse raw = .ok v) (s : State) :
    DecoderInv (putRecord v s) := by
  obtain ⟨body, hb, -, -⟩ := decodeRaw_of_parse_ok hv
  exact .inl ⟨putRecord_decStatus v s, _, putRecord_holdsRecord s hb⟩

/-- `DECODE` leaves a record or none, whatever was there before. -/
theorem execDecode_decoderInv {s t : State} (h : execDecode s = .next t) : DecoderInv t := by
  obtain ⟨e, he, rfl⟩ | ⟨raw, v, hv, rfl⟩ := decode_effect h
  · exact raise_decoderInv he s
  · exact putRecord_decoderInv hv s

theorem receiveRaw_decoderInv {raw : List Byte} {s t : State} (h : receiveRaw raw s = .next t) : DecoderInv t := by
  obtain ⟨-, ⟨e, he, rfl⟩ | ⟨v, hv, rfl⟩⟩ := receiveRaw_effect h
  · exact raise_decoderInv he _
  · exact putRecord_decoderInv hv _

theorem decoderInv_applyReset (s : State) : DecoderInv (applyReset s) := .inr ⟨.inl rfl, by simp [NoRecord, State.reset]⟩

theorem DecoderKept.decoderInv {s t : State} (h : DecoderKept s t) (hs : DecoderInv s) : DecoderInv t := by
  rw [h]; exact hs

theorem runTxn_keeps_decoderInv {x : Txn} {s t : State} (h : runTxn x s = .next t) (hs : DecoderInv s) :
    DecoderInv t := by
  by_cases hr : x = .reset
  · subst hr; cases h; exact decoderInv_applyReset s
  by_cases hd : x = scriptCmd .decode
  · subst hd
    rw [runTxn_scriptCmd (i := .decode) s rfl rfl] at h
    exact execDecode_decoderInv h
  by_cases hv : ∃ raw, x = .receive raw
  · obtain ⟨raw, rfl⟩ := hv
    rw [runTxn, receiveLine_eq] at h
    exact receiveRaw_decoderInv h
  · exact ((runTxn_writes h).decoderKept hr hd (not_exists.1 hv)).decoderInv hs

/-! ### The buffers -/

theorem OnlyDecoderChanged.buffersInv {s t : State} (ht : OnlyDecoderChanged s t) (h : BuffersInv s) : BuffersInv t := by
  rw [ht]; exact { h with }

theorem BuffersInv.loaded {raw : List Byte} {s : State} (h : BuffersInv s) (hl : raw.length ≤ 256) :
    BuffersInv (loaded raw s) :=
  { h with
    rxbufForm := Memory.wf_writeBytes 0 raw h.rxbufForm
    rxbufSize := Memory.within_writeBytes h.rxbufSize (by simpa using hl)
    rxLenLegal := (loaded_rxLen s hl).trans_le hl }

theorem Effect.buffersInv {s t : State} (he : Effect s t) (h : BuffersInv s) : BuffersInv t := by
  cases he with
  | same => exact h
  | acc a => exact { h with }
  | payload p hp =>
    exact { h with
      plbufForm := Memory.wf_writeBytes 0 p h.plbufForm
      plbufSize := Memory.within_writeBytes h.plbufSize (by simp; omega) }
  | noFrame =>
    exact { h with
      txbufForm := Memory.wf_below 0 h.txbufForm
      txbufSize := Memory.within_below h.txbufSize }
  | frame n c p hp =>
    exact { h with
      txbufForm := Memory.wf_below _ (Memory.wf_writeBytes 0 _ h.txbufForm)
      txbufSize := Memory.within_below (Memory.within_writeBytes h.txbufSize (by simp; omega)) }
  | noRecord e he => exact (raise_onlyDecoder he s).buffersInv h
  | record raw v hv => exact (putRecord_onlyDecoder v s).buffersInv h

theorem exec_keeps_buffersInv {i : Instr} {s t : State} (h : exec i s = .next t) (hs : BuffersInv s) : BuffersInv t := by
  obtain he | ⟨bytes, -, hl, he⟩ := exec_effect h
  · exact he.buffersInv hs
  · exact he.buffersInv (hs.loaded hl)

theorem BuffersInv.storeReg {s : State} (h : BuffersInv s) (r : Reg) (v : Nat) : BuffersInv (storeReg r v s) := by
  cases r with
  | rxLen =>
    by_cases hv : v ≤ 256
    · rw [Machine.storeReg, storeRxLen_of_le s hv]
      exact { h with rxLenLegal := (Nat.mod_le v _).trans hv }
    · rw [Machine.storeReg, storeRxLen_of_gt s (by omega)]
      exact { h with }
  | _ => exact { h with }

/-- A byte write inside a buffer keeps all three. -/
theorem BuffersInv.setBuf_write {s : State} (h : BuffersInv s) {b : Buf} {k : Nat} (hk : k < bufSize b) (v : Byte) :
    BuffersInv (s.setBuf b ((s.buf b).write k v)) := by
  cases b with
  | plbuf => exact { h with plbufForm := Memory.wf_write k v h.plbufForm, plbufSize := Memory.within_write v h.plbufSize hk }
  | txbuf => exact { h with txbufForm := Memory.wf_write k v h.txbufForm, txbufSize := Memory.within_write v h.txbufSize hk }
  | rxbuf => exact { h with rxbufForm := Memory.wf_write k v h.rxbufForm, rxbufSize := Memory.within_write v h.rxbufSize hk }

theorem buffersInv_applyReset (s : State) : BuffersInv (applyReset s) := ⟨rfl, rfl, rfl, rfl, rfl, rfl, Nat.zero_le _⟩

theorem runTxn_keeps_buffersInv {x : Txn} {s t : State} (h : runTxn x s = .next t) (hs : BuffersInv s) :
    BuffersInv t := by
  obtain ⟨w, i, -, -, he⟩ | ⟨w, e, -, -, rfl⟩ | ⟨r, v, -, -, -, rfl⟩ | ⟨vs, -, rfl⟩ | ⟨b, k, v, -, -, hk, rfl⟩ |
    ⟨-, rfl⟩ | ⟨-, hlen, m, vs, rfl, hwf, hwi⟩ | ⟨raw, -, he⟩ := runTxn_cases h
  · exact exec_keeps_buffersInv he hs
  · exact { hs with }
  · exact hs.storeReg r v
  · exact { hs with }
  · exact hs.setBuf_write hk _
  · exact buffersInv_applyReset s
  · exact { hs with rxbufForm := hwf hs.rxbufForm, rxbufSize := hwi hs.rxbufSize, rxLenLegal := hlen }
  · exact (receiveRaw_onlyDecoder he).buffersInv (hs.loaded (receiveRaw_effect he).1)

/-! ### The whole -/

theorem Inv.withScript {s : State} (h : Inv s) (ts : List Txn) : Inv (withScript ts s) :=
  ⟨{ h.buffers with }, h.encoder, h.decoder⟩

theorem runTxn_keeps_inv {x : Txn} {s t : State} (h : runTxn x s = .next t) (hs : Inv s) : Inv t :=
  ⟨runTxn_keeps_buffersInv h hs.buffers, runTxn_keeps_encoderInv h hs.encoder, runTxn_keeps_decoderInv h hs.decoder⟩

/-- Settles O59: a step runs one transaction, or changes nothing when the script is empty. -/
theorem everyStepKeepsTheInvariant : Obligations.EveryStepKeepsTheInvariant := by
  intro s t hs h
  cases hc : s.script with
  | nil => rw [step_nil hc] at h; cases h; exact hs
  | cons x rest => rw [step_cons hc] at h; exact runTxn_keeps_inv h (hs.withScript rest)

end Sys2Proof.Machine
end

section
/-!
PROOFS. What the payload commands, `ENCODE` and `DECODE` read (R46, R72): when a read is refused, and that nothing else
counts.
-/

namespace Sys2Proof.Machine

/-! ### The operands of the payload commands -/

/-- Stopped at the read of an invalid location (R45, row U1). -/
def ReadRefused {α : Type} (x : Host.Outcome α Fault Refusal) : Prop := ∃ loc, x = .refused (.invalidRead loc)

theorem not_readRefused_next {α : Type} (a : α) : ¬ ReadRefused (.next a) := fun ⟨_, h⟩ => by cases h

/-- A read followed by a part whose own refusal does not hang on the value read. -/
theorem readRefused_need_andThen {α β : Type} {loc : Loc} {m : Marked α} {k : α → Host.Outcome β Fault Refusal}
    {P : Prop} (hk : ∀ v, ReadRefused (k v) ↔ P) : ReadRefused (andThen (need loc m) k) ↔ m = .invalid ∨ P := by
  cases m with
  | invalid => exact ⟨fun _ => .inl rfl, fun _ => ⟨loc, rfl⟩⟩
  | defined v => exact (hk v).trans ⟨.inr, fun h => h.resolve_left (by simp)⟩

/-- A last read, followed by nothing that can stop. -/
theorem readRefused_need_andThen_next {α β : Type} {loc : Loc} {m : Marked α} (f : α → β) :
    ReadRefused (andThen (need loc m) fun v => .next (f v)) ↔ m = .invalid := by
  rw [readRefused_need_andThen (P := False) fun v => iff_of_false (not_readRefused_next _) id, or_false]

theorem readRefused_presentOperands (s : State) : ReadRefused (presentOperands s) ↔ PresentOperandMissing s :=
  readRefused_need_andThen fun _ => readRefused_need_andThen fun _ => readRefused_need_andThen fun _ =>
    readRefused_need_andThen fun _ => readRefused_need_andThen fun _ => readRefused_need_andThen fun _ =>
      readRefused_need_andThen fun _ => readRefused_need_andThen_next _

theorem readRefused_buildPresent (s : State) : ReadRefused (buildPresent s) ↔ PresentOperandMissing s := by
  rw [← readRefused_presentOperands, buildPresent]
  obtain ⟨p, hp, hl⟩ | ⟨loc, hp⟩ := presentOperands_cases s <;> rw [hp]
  · rw [andThen_next, storePayload_eq s (by omega)]
    exact iff_of_false (not_readRefused_next _) (not_readRefused_next _)
  · exact iff_of_true ⟨loc, rfl⟩ ⟨loc, rfl⟩

theorem readRefused_buildAbsent (s : State) : ReadRefused (buildAbsent s) ↔ s.measNa = .invalid := by
  rw [buildAbsent, absentOperands, andThen_assoc, readRefused_need_andThen (P := False), or_false]
  intro na
  rw [andThen_next, storePayload_eq s (p := [na, na, na]) (by simp)]
  exact iff_of_false (not_readRefused_next _) id

theorem execPlBuild_of_defined {s : State} {f : BitVec 1} (h : s.measFound = .defined f) :
    execPlBuild s = if f = 1#1 then buildPresent s else buildAbsent s := by rw [execPlBuild, h]; rfl

theorem readRefused_execPlBuild (s : State) : ReadRefused (execPlBuild s) ↔
    s.measFound = .invalid ∨ (s.measFound = .defined 1#1 ∧ PresentOperandMissing s) ∨
      (s.measFound = .defined 0#1 ∧ s.measNa = .invalid) := by
  cases hf : s.measFound with
  | invalid => exact iff_of_true ⟨.reg .measFound, by rw [execPlBuild, hf]; rfl⟩ (.inl rfl)
  | defined f =>
    rw [execPlBuild_of_defined hf]
    obtain rfl | rfl : f = 1#1 ∨ f = 0#1 := by bv_omega
    · simp [readRefused_buildPresent]
    · simp [readRefused_buildAbsent]

/-- Settles O26: each command is its operand reads in a row, then a write that always completes. -/
theorem payloadCommandsNeedTheirOperands : Obligations.PayloadCommandsNeedTheirOperands :=
  fun s => ⟨readRefused_buildPresent s, readRefused_buildAbsent s, readRefused_execPlBuild s⟩

/-! ### What `ENCODE` and `DECODE` read -/

theorem HoldsBytes.of_agree {m m' : Memory} {n : Nat} {bs : List Byte} (h : HoldsBytes m 0 bs) (hn : bs.length ≤ n)
    (hm : ∀ k, k < n → m.read k = m'.read k) : HoldsBytes m' 0 bs := by
  intro k hk
  rw [Nat.zero_add, ← hm k (by omega), ← h k hk, Nat.zero_add]

/-- Settles O32: `ENCODE` takes the same branch in both states, and in each the same bytes are all that `TXBUF` holds. -/
theorem encodeDependsOnItsInputsOnly : Obligations.EncodeDependsOnItsInputsOnly := by
  intro s t s' hn hc hl hp h
  obtain ⟨hs, h1⟩ | ⟨n, c, p, hsz, hpl, hb, hsn, hsc, h1⟩ | ⟨-, -, loc, h1⟩ := execEncode_cases s <;>
    rw [exec, h1] at h <;> cases h
  · refine ⟨_, execEncode_illegal (hl ▸ hs), rfl, rfl, fun k => ?_⟩
    rw [raise_formatError_holdsExactly, raise_formatError_holdsExactly]
  · refine ⟨_, execEncode_legal hsz (hl ▸ hpl) (hb.of_agree hpl.ge hp) (hn ▸ hsn) (hc ▸ hsc), rfl, rfl, fun k => ?_⟩
    rw [framePut_holdsExactly, framePut_holdsExactly]

theorem memRead_eq_next {b : Buf} {i n : Nat} {s : State} {bs : List Byte} (h : memRead b i n s = .next bs) :
    bs.length = n ∧ HoldsBytes (s.buf b) i bs := by
  have hin : i + n ≤ bufSize b := by
    by_contra hc
    rw [memRead, if_neg hc] at h; cases h
  obtain ⟨cs, h1, h2⟩ | ⟨k, -, -, h1⟩ := memRead_cases s hin <;> rw [h1] at h <;> cases h
  exact h2

/-- When `DECODE` completes in `s`, it completes in every state that agrees with `s` on its inputs, with the same error or
the same accepted frame (R173). -/
theorem execDecode_agree {s t s' : State} (hl : s.rxLen = t.rxLen)
    (hr : ∀ k, k < s.rxLen.toNat → s.rxbuf.read k = t.rxbuf.read k) (h : execDecode s = .next s') :
    (∃ e : Err, e.raisedBy = .decoder ∧ s' = raise e s ∧ execDecode t = .next (raise e t)) ∨
      ∃ v, s' = putRecord v s ∧ execDecode t = .next (putRecord v t) := by
  by_cases hs : s.rxLen.toNat < 11
  · rw [execDecode_short hs] at h; cases h
    exact .inl ⟨.tooShort, rfl, rfl, execDecode_short (hl ▸ hs)⟩
  have hrun := h
  rw [execDecode, if_neg (by simpa using hs)] at h
  obtain ⟨header, hh, h⟩ := andThen_eq_next h
  obtain ⟨hhl, hhb⟩ := memRead_eq_next hh
  cases he : lengthAndShape s.rxLen.toNat (header.getD 6 0#8) with
  | some e =>
    simp only [he] at h; cases h
    exact .inl ⟨e, lengthAndShape_raisedBy he, rfl,
      execDecode_header (hl ▸ by omega) hhl (hhb.of_agree (by simp at hhl; omega) hr) (hl ▸ he)⟩
  | none =>
    simp only [he] at h
    obtain ⟨raw, hraw, -⟩ := andThen_eq_next h
    obtain ⟨hrl, hrb⟩ := memRead_eq_next hraw
    rw [execDecode_of_holds hrl.symm hrb] at hrun; cases hrun
    rw [execDecode_of_holds (hl ▸ hrl.symm) (hrb.of_agree hrl.le hr)]
    cases hv : parse raw with
    | error e => exact .inl ⟨e, parse_error_raisedBy hv, rfl, rfl⟩
    | ok v => exact .inr ⟨v, rfl, rfl⟩

theorem raise_sameRecord {e : Err} (he : e.raisedBy = .decoder) (s t : State) :
    (raise e t).decStatus = (raise e s).decStatus ∧ SameRecord (raise e s) (raise e t) := by
  simp [raise_decoder he, SameRecord]

theorem putRecord_sameRecord (v : Valid) (s t : State) :
    (putRecord v t).decStatus = (putRecord v s).decStatus ∧ SameRecord (putRecord v s) (putRecord v t) := by
  unfold putRecord writePayloadPart
  split_ifs <;> simp [SameRecord]

/-- Settles O40: the same error or the same accepted frame writes the same status and record. -/
theorem decodeDependsOnItsInputsOnly : Obligations.DecodeDependsOnItsInputsOnly := by
  intro s t s' hl hr h
  obtain ⟨e, he, rfl, ht⟩ | ⟨v, rfl, ht⟩ := execDecode_agree hl hr h
  · exact ⟨_, ht, raise_sameRecord he s t⟩
  · exact ⟨_, ht, putRecord_sameRecord v s t⟩

end Sys2Proof.Machine
end

section
/-!
PROOFS. Host transactions on registers: a write to `RX_LEN` (R34, R192), a read of each register (R193).
-/

namespace Sys2Proof.Machine

theorem runTxn_scriptWrite_overWide {r : Reg} {v : Nat} (s : State) (h : regAccess r ≠ .r) (hv : 2 ^ regWidth r ≤ v) :
    runTxn (scriptWrite r v) s = .refused (.overWideRegister r v) := by
  simp only [scriptWrite, runTxn, hostWrite, regOfNum_regNum]
  cases ha : regAccess r with
  | r => exact absurd ha h
  | w => exact if_neg hv.not_gt
  | rw => exact if_neg hv.not_gt

theorem runTxn_scriptWrite_rxLen {v : Nat} (s : State) (hv : v < 512) :
    runTxn (scriptWrite .rxLen v) s = .next (storeRxLen v s) := runTxn_scriptWrite s rfl hv

/-- Settles O49: the three ranges are those of `storeRxLen` and of the register's width. -/
theorem rxLenTakesAtMost256 : Obligations.RxLenTakesAtMost256 := by
  intro v s
  refine ⟨fun h => ?_, fun h257 h511 => ?_, fun h => runTxn_scriptWrite_overWide s (by decide) h⟩
  · rw [runTxn_scriptWrite_rxLen s (by omega), storeRxLen_of_le s h]
    exact ⟨_, rfl, Nat.mod_eq_of_lt (by omega), rfl⟩
  · rw [runTxn_scriptWrite_rxLen s (by omega), storeRxLen_of_gt s h257]; rfl

theorem ReadsAs.of_readReg {n : Nat} {r : Reg} {s : State} {v : Nat} (hn : regNum r = n) (h : readReg r s = .next v) :
    ReadsAs n r s v := by
  subst hn
  exact ⟨rfl, h, by rw [← scriptRead, runTxn_scriptRead, h]; rfl⟩

/-- A register whose read is that of a marked field reads as the field, or is refused. -/
theorem ReadsField.of_readReg {w n : Nat} {r : Reg} {s : State} {field : Marked (BitVec w)} (hn : regNum r = n)
    (h : readReg r s = needNat r field) : ReadsField n r s field := by
  constructor
  · rintro v rfl
    exact ReadsAs.of_readReg hn h
  · rintro rfl
    subst hn
    exact ⟨h, by rw [← scriptRead, runTxn_scriptRead, h]; rfl⟩

/-- Settles O51: every row of R22 gives the register's number and how its field is read. -/
theorem hostReadReturnsAndChangesNothing : Obligations.HostReadReturnsAndChangesNothing := by
  intro s
  exact ⟨.of_readReg rfl rfl, .of_readReg rfl rfl, .of_readReg rfl rfl, .of_readReg rfl rfl, .of_readReg rfl rfl,
    .of_readReg rfl rfl, .of_readReg rfl rfl, .of_readReg rfl rfl, .of_readReg rfl rfl, .of_readReg rfl rfl,
    .of_readReg rfl rfl, .of_readReg rfl rfl, .of_readReg rfl rfl, .of_readReg rfl rfl, .of_readReg rfl rfl,
    .of_readReg rfl rfl, .of_readReg rfl rfl, .of_readReg rfl rfl, .of_readReg rfl rfl, .of_readReg rfl rfl,
    .of_readReg rfl rfl, .of_readReg rfl rfl, .of_readReg rfl rfl, .of_readReg rfl rfl, .of_readReg rfl rfl,
    .of_readReg rfl rfl, .of_readReg rfl rfl, .of_readReg rfl rfl, .of_readReg rfl rfl, .of_readReg rfl rfl,
    .of_readReg rfl rfl, .of_readReg rfl rfl, .of_readReg rfl rfl, .of_readReg rfl rfl, .of_readReg rfl rfl⟩

end Sys2Proof.Machine
end

section
/-!
PROOFS. Steps and the script (R73, R103), and the accesses that stop (R68, row U2).
-/

namespace Sys2Proof.Machine

/-- Settles O2: the transaction presents the frame. -/
theorem stepRunsDecodedFrame : Obligations.StepRunsDecodedFrame := by
  intro s raw i rest hs hd
  rw [step_cons hs]
  exact runTxn_present (c := .frame raw) _ hd

/-- A transaction that completes completes the same way under another script, which it leaves alone. -/
theorem runTxn_withScript {x : Txn} {s t : State} (ts : List Txn) (h : runTxn x s = .next t) :
    runTxn x (withScript ts s) = .next (withScript ts t) := by
  rw [ignoresScript_runTxn x ts s, h, andThen_next]

theorem withScript_of_script_eq {ts : List Txn} {s : State} (h : s.script = ts) : withScript ts s = s := by
  subst h; rfl

/-- A step takes the first transaction of a script and does what it does before any other script. -/
theorem step_withScript_cons {x : Txn} {s t : State} (ts rest : List Txn)
    (h : runTxn x (withScript rest s) = .next t) : step (withScript (x :: ts) s) = .next (withScript ts t) :=
  (step_cons (s := withScript (x :: ts) s) rfl).trans (runTxn_withScript (s := withScript rest s) ts h)

theorem run_succ_of_step {s t : State} (k : Nat) (h : step s = .next t) :
    Host.Core.run Sys2Proof.core (k + 1) s = Host.Core.run Sys2Proof.core k t :=
  (run_succ k s).trans (by rw [h]; rfl)

/-- Settles O4, by induction on the script: each step leaves the state its transaction does, with the rest of the script
still to come. -/
theorem stepsRunScriptInOrder : Obligations.StepsRunScriptInOrder := by
  intro ts
  induction ts with
  | nil => intro rest s t h; cases h; exact ⟨rfl, rfl⟩
  | cons x ts ih =>
    intro rest s t h
    obtain ⟨u, hx, hts⟩ := andThen_eq_next h
    have hu : withScript rest u = u := withScript_of_script_eq (runTxn_script hx)
    have hstep : step (withScript (x :: (ts ++ rest)) s) = .next (withScript (ts ++ rest) u) :=
      step_withScript_cons (ts ++ rest) rest hx
    obtain ⟨hrun, hscript⟩ := ih rest u t (hu.symm ▸ hts)
    exact ⟨(run_succ_of_step ts.length hstep).trans hrun, hscript⟩

/-! ### Accesses that stop -/

theorem runTxn_scriptWrite_readOnly {r : Reg} (v : Nat) (s : State) (h : regAccess r = .r) :
    runTxn (scriptWrite r v) s = .refused (.readOnlyRegister r) := by
  simp only [scriptWrite, runTxn, hostWrite, regOfNum_regNum, h]

theorem regOfNum_eq_none {n : Nat} (h : 0x22 < n) : regOfNum n = none :=
  List.getElem?_eq_none (show regTable.length ≤ n from h)

theorem hostWrite_noSuchRegister {n : Nat} (v : Nat) (s : State) (h : 0x22 < n) :
    hostWrite n v s = .fault (.noSuchRegister n) := by rw [hostWrite, regOfNum_eq_none h]

theorem hostRead_noSuchRegister {n : Nat} (s : State) (h : 0x22 < n) : hostRead n s = .fault (.noSuchRegister n) := by
  rw [hostRead, regOfNum_eq_none h]

/-- `MemRead` of at least one byte from an offset outside the buffer (R60). -/
theorem memRead_outside {b : Buf} {i n : Nat} (s : State) (h : bufSize b ≤ i) (hn : 0 < n) :
    memRead b i n s = .fault (.noSuchOffset b i) := by
  rw [memRead, if_neg (by omega), Nat.max_eq_left h]

/-- `MemWrite` of at least one byte from an offset outside the buffer (R60). -/
theorem memWrite_outside {b : Buf} {i : Nat} {bytes : List Byte} (s : State) (h : bufSize b ≤ i)
    (hn : 0 < bytes.length) : memWrite b i bytes s = .fault (.noSuchOffset b i) := by
  rw [memWrite, if_neg (by omega), Nat.max_eq_left h]

theorem hostReadByte_outside {b : Buf} {i : Nat} (s : State) (h : bufSize b ≤ i) :
    hostReadByte b i s = .fault (.noSuchOffset b i) := by
  rw [hostReadByte, memRead_outside s h Nat.one_pos, andThen_fault]

theorem hostWriteByte_txbuf (i v : Nat) (s : State) : hostWriteByte .txbuf i v s = .refused (.readOnlyBuffer .txbuf) :=
  if_pos rfl

/-- A byte write to a writable buffer is a write of that one byte (R194). -/
theorem hostWriteByte_of_lt {b : Buf} {v : Nat} (i : Nat) (s : State) (hb : b ≠ .txbuf) (hv : v < 256) :
    hostWriteByte b i v s = memWrite b i [BitVec.ofNat 8 v] s := by rw [hostWriteByte, if_neg hb, if_pos hv]

theorem hostWriteByte_overWide {b : Buf} {v : Nat} (i : Nat) (s : State) (hb : b ≠ .txbuf) (hv : 256 ≤ v) :
    hostWriteByte b i v s = .refused (.overWideByte v) := by rw [hostWriteByte, if_neg hb, if_neg (by omega)]

theorem hostWriteByte_outside {b : Buf} {i v : Nat} (s : State) (h : bufSize b ≤ i) (hb : b ≠ .txbuf) (hv : v < 256) :
    hostWriteByte b i v s = .fault (.noSuchOffset b i) := by
  rw [hostWriteByte_of_lt i s hb hv, memWrite_outside s h (by simp)]

/-- Settles O53: each violation by the check of its transaction that catches it. -/
theorem accessViolationsStop : Obligations.AccessViolationsStop :=
  ⟨fun _ v s h => runTxn_scriptWrite_readOnly v s h,
    fun _ _ s h hv => runTxn_scriptWrite_overWide s h hv,
    fun _ v s h => ⟨hostWrite_noSuchRegister v s h, hostRead_noSuchRegister s h⟩,
    hostWriteByte_txbuf,
    fun _ _ _ s h => ⟨hostReadByte_outside s h, hostWriteByte_outside s h⟩,
    fun _ i _ s hb hv => hostWriteByte_overWide i s hb hv⟩

end Sys2Proof.Machine
end

section
/-!
PROOFS. The hand-off of received bytes: load, then `DECODE` (R76, R77, R102); what it makes of a frame with a right and
with a wrong checksum (R87, R165, R184).
-/

namespace Sys2Proof.Machine

/-! ### What `DECODE` leaves -/

theorem raise_decodedAs {e : Err} (he : e.raisedBy = .decoder) (s : State) : DecodedAs (raise e s) (.error e) := by
  rw [raise_decoder he]
  exact ⟨rfl, clearRecord_noRecord _⟩

theorem putRecord_decodedAs {v : Valid} {body : Body} (s : State) (h : demux v.msgLen.toNat v.payload = some body) :
    DecodedAs (putRecord v s) (.ok { nodeId := v.nodeId, msgCnt := v.msgCnt, body := body }) :=
  ⟨putRecord_decStatus v s, putRecord_holdsRecord s h⟩

/-- `DECODE` on defined bytes completes with what `decode` gives for them and writes its own outputs alone (R168). -/
theorem execDecode_decodedAs {s : State} {raw : List Byte} (hl : s.rxLen.toNat = raw.length)
    (hr : HoldsBytes s.rxbuf 0 raw) :
    ∃ t, execDecode s = .next t ∧ DecodedAs t (decodeRaw raw) ∧ OnlyDecoderChanged s t := by
  rw [execDecode_of_holds hl hr]
  cases hp : parse raw with
  | error e =>
    have he := parse_error_raisedBy hp
    exact ⟨_, rfl, decodeRaw_error hp ▸ raise_decodedAs he s, raise_onlyDecoder he s⟩
  | ok v =>
    obtain ⟨body, hb, -, hd⟩ := decodeRaw_of_parse_ok hp
    exact ⟨_, rfl, hd ▸ putRecord_decodedAs s hb, putRecord_onlyDecoder v s⟩

/-! ### The hand-off -/

theorem receiveRaw_of_le {raw : List Byte} (s : State) (h : raw.length ≤ 256) :
    receiveRaw raw s = execDecode (loaded raw s) := by
  rw [receiveRaw, if_pos (by simpa using h), loadRx_eq s h, andThen_next]

theorem receiveRaw_tooLong {raw : List Byte} (s : State) (h : 256 < raw.length) :
    receiveRaw raw s = .refused (.rawTooLong raw.length) := by
  rw [receiveRaw, if_neg (by simpa using h)]

theorem runTxn_receive (raw : List Byte) (s : State) : runTxn (.receive raw) s = receiveRaw raw s :=
  receiveLine_eq raw s

theorem loaded_read_beyond {raw : List Byte} {i : Nat} (s : State) (h : raw.length ≤ i) :
    (loaded raw s).rxbuf.read i = s.rxbuf.read i := by
  rw [loaded, Memory.read_writeBytes, if_neg (by omega)]

/-- What loading leaves and `DECODE` does not touch is what a received sequence leaves (R76). -/
theorem received_of_onlyDecoder {raw : List Byte} {s t : State} (hl : raw.length ≤ 256)
    (h : OnlyDecoderChanged (loaded raw s) t) : Received s t raw := by
  have hbuf : t.rxbuf = (loaded raw s).rxbuf := by rw [h]
  have hlen : t.rxLen = (loaded raw s).rxLen := by rw [h]
  refine ⟨?_, fun i hi => ?_, ?_, ?_⟩
  · rw [hbuf]; exact loaded_holds raw s
  · rw [hbuf, loaded_read_beyond s hi]
  · rw [hlen, loaded_rxLen s hl]
  · rw [hbuf, hlen]; exact h

/-- The hand-off of at most 256 bytes completes: the bytes are loaded, and decoded as `decode` says (R76, R77). -/
theorem receiveRaw_received {raw : List Byte} (s : State) (h : raw.length ≤ 256) :
    ∃ t, receiveRaw raw s = .next t ∧ Received s t raw ∧ DecodedAs t (decodeRaw raw) := by
  obtain ⟨t, ht, hd, ho⟩ := execDecode_decodedAs (loaded_rxLen s h) (loaded_holds raw s)
  exact ⟨t, by rw [receiveRaw_of_le s h, ht], received_of_onlyDecoder h ho, hd⟩

/-- `LOADRX` as a script: the bytes one by one, then their count (R102). -/
theorem runScript_scriptLoadRx {raw : List Byte} (s : State) (h : raw.length ≤ 256) :
    runScript (scriptLoadRx raw) s = .next (loaded raw s) := by
  rw [scriptLoadRx, runScript_append, runScript_scriptBytes_rxbuf 0 raw s (by omega), andThen_next, runScript,
    runTxn_scriptWrite_rxLen _ (by omega), storeRxLen_of_le _ h]
  rfl

theorem runScript_loadRx_decode {raw : List Byte} (s : State) (h : raw.length ≤ 256) :
    runScript (scriptLoadRx raw ++ [scriptCmd .decode]) s = receiveRaw raw s := by
  have hd : runTxn (scriptCmd .decode) (loaded raw s) = execDecode (loaded raw s) :=
    runTxn_scriptCmd (i := .decode) _ rfl rfl
  rw [runScript_append, runScript_scriptLoadRx s h, andThen_next, runScript, hd, receiveRaw_of_le s h]
  exact andThen_pure _

/-- Settles O43: the script loads what the hand-off loads, and both end in the same `DECODE`. -/
theorem receiveIsLoadThenDecode : Obligations.ReceiveIsLoadThenDecode := by
  intro raw s
  rw [runTxn_receive]
  exact ⟨fun h => ⟨(runScript_loadRx_decode s h).symm, receiveRaw_received s h⟩, receiveRaw_tooLong s⟩

/-! ### Frames -/

theorem toNat_ofNat_of_shape {n : Nat} (h : n = 3 ∨ n = 8) : (BitVec.ofNat 8 n).toNat = n := by
  rw [BitVec.toNat_ofNat]; omega

theorem decodeRaw_frameOf (n : Half) (c : Word) {p : List Byte} {body : Body} (h : p.length = 3 ∨ p.length = 8)
    (hb : demux p.length p = some body) :
    decodeRaw (frameOf n c p) = .ok { nodeId := n, msgCnt := c, body := body } := by
  simp only [decodeRaw, parse_frameOf n c h, toNat_ofNat_of_shape h, hb]

/-- A frame whose checksum field is wrong passes steps 2 to 4 and fails step 5 (R165). -/
theorem parse_wrongChecksum (n : Half) (c : Word) {p : List Byte} {k : Word} (h : p.length = 3 ∨ p.length = 8)
    (hk : k ≠ crc32 (frameBody n c p)) : parse (frameBody n c p ++ be32 k) = .error .checksumFailed := by
  have hlen : (frameBody n c p ++ be32 k).length = 11 + p.length := by simp; omega
  have hm : (frameBody n c p ++ be32 k).getD 6 0#8 = BitVec.ofNat 8 p.length := rfl
  have hs : lengthAndShape (frameBody n c p ++ be32 k).length (BitVec.ofNat 8 p.length) = none := by
    rw [lengthAndShape_eq_none, toNat_ofNat_of_shape h, hlen]; omega
  have hbody : slice (frameBody n c p ++ be32 k) 0 (7 + p.length) = frameBody n c p :=
    List.take_left' (frameBody_length n c p)
  have hcrc : slice (frameBody n c p ++ be32 k) (7 + p.length) (11 + p.length) = be32 k := by
    rw [slice, List.drop_left' (frameBody_length n c p)]
    exact List.take_of_length_le (by simp; omega)
  rw [parse_checkSum (by omega) (hm ▸ hs), hm, checkSum]
  simp only [toNat_ofNat_of_shape h, hbody, hcrc, unbe32_be32]
  exact if_pos hk.symm

/-- A frame of a known shape that arrives is loaded and decoded: accepted or `ChecksumFailed`, as its checksum field
says. -/
theorem receiveRaw_frame (s : State) (n : Half) (c k : Word) {p : List Byte} {body : Body}
    (h : p.length = 3 ∨ p.length = 8) (hb : demux p.length p = some body) :
    ∃ t, receiveRaw (frameBody n c p ++ be32 k) s = .next t ∧ Received s t (frameBody n c p ++ be32 k) ∧
      ((k == crc32 (frameBody n c p)) = true → DecodedAs t (.ok { nodeId := n, msgCnt := c, body := body })) ∧
      ((k == crc32 (frameBody n c p)) = false → DecodedAs t (.error .checksumFailed)) := by
  obtain ⟨t, ht, hrec, hdec⟩ := receiveRaw_received (raw := frameBody n c p ++ be32 k) s (by simp; omega)
  refine ⟨t, ht, hrec, fun hk => ?_, fun hk => ?_⟩
  · rw [← decodeRaw_frameOf n c h hb, frameOf, ← eq_of_beq hk]; exact hdec
  · rw [← decodeRaw_error (parse_wrongChecksum n c h (ne_of_beq_false hk))]; exact hdec

/-- Settles O41: the frame is the body of its three payload bytes and the checksum field. -/
theorem absentFrameArrives : Obligations.AbsentFrameArrives :=
  fun s n c x y z k => receiveRaw_frame s n c k (p := [x, y, z]) (.inl rfl) rfl

/-- Settles O42: the frame is the body of its eight payload bytes and the checksum field. -/
theorem presentFrameArrives : Obligations.PresentFrameArrives :=
  fun s n c r h a k => receiveRaw_frame s n c k (p := [r, h, a.b0, a.b1, a.b2, a.b3, a.b4, a.b5]) (.inr rfl) rfl

end Sys2Proof.Machine
end

section
/-!
PROOFS. The decoder and the encoder undo each other (R80, R87, R91 to R93).
-/

namespace Sys2Proof

open Sys2Proof.Machine

/-! ### Command words -/

/-- The seven commands with no immediate and their opcodes (R92). -/
theorem plainCommand_eq_some_iff {op : Byte} {i : Instr} :
    plainCommand op = some i ↔
      (op = 0x00#8 ∧ i = .nop) ∨ (op = 0x01#8 ∧ i = .crcInit) ∨ (op = 0x10#8 ∧ i = .plPresent) ∨
      (op = 0x11#8 ∧ i = .plAbsent) ∨ (op = 0x12#8 ∧ i = .plBuild) ∨ (op = 0x20#8 ∧ i = .encode) ∨
      (op = 0x30#8 ∧ i = .decode) := by
  refine ⟨plainCommand_eq_some, ?_⟩
  rintro (⟨rfl, rfl⟩ | ⟨rfl, rfl⟩ | ⟨rfl, rfl⟩ | ⟨rfl, rfl⟩ | ⟨rfl, rfl⟩ | ⟨rfl, rfl⟩ | ⟨rfl, rfl⟩) <;> rfl

theorem decode_cmd_crcByte {w : Half} (h : opcodeOf w = 0x02#8) : decode (.cmd w) = .ok (.crcByte (imm8Of w)) :=
  if_pos h

theorem decode_cmd_plain {w : Half} {i : Instr} (h0 : imm8Of w = 0#8) (hp : plainCommand (opcodeOf w) = some i) :
    decode (.cmd w) = .ok i := by
  have h2 : opcodeOf w ≠ 0x02#8 := fun h => by rw [h] at hp; cases hp
  rw [decode, decodeWord, if_neg h2, hp]
  exact if_pos h0

/-- Which words decode to which command (R92). -/
theorem decode_cmd_eq_ok_iff {w : Half} {i : Instr} :
    decode (.cmd w) = .ok i ↔
      (opcodeOf w = 0x02#8 ∧ i = .crcByte (imm8Of w)) ∨ (imm8Of w = 0#8 ∧ plainCommand (opcodeOf w) = some i) := by
  constructor
  · intro h
    exact (decodeWord_eq_ok h).imp_right And.right
  · rintro (⟨h2, rfl⟩ | ⟨h0, hp⟩)
    · exact decode_cmd_crcByte h2
    · exact decode_cmd_plain h0 hp

theorem decode_commandWord_plain {op : Byte} {i : Instr} (h : plainCommand op = some i) :
    decode (.cmd (commandWord 0#8 op)) = .ok i :=
  decode_cmd_plain (imm8Of_commandWord 0#8 op) ((congrArg plainCommand (opcodeOf_commandWord 0#8 op)).trans h)

theorem decode_commandWord_crcByte (imm8 : Byte) : decode (.cmd (commandWord imm8 0x02#8)) = .ok (.crcByte imm8) := by
  rw [decode_cmd_crcByte (opcodeOf_commandWord imm8 0x02#8), imm8Of_commandWord]

/-! ### Frames -/

theorem decode_absentBytes (n : Half) (c : Word) (x y z : Byte) (k : Word) :
    decode (.frame (absentBytes n c x y z k)) = .ok (.frameAbsent n c x y z k) := by
  change Except.ok (Instr.frameAbsent (unbe16 (be16 n)) (unbe32 (be32 c)) x y z (unbe32 (be32 k))) = _
  rw [unbe16_be16, unbe32_be32, unbe32_be32]

theorem decode_presentBytes (n : Half) (c : Word) (r h : Byte) (a : Address) (k : Word) :
    decode (.frame (presentBytes n c r h a k)) = .ok (.framePresent n c r h a k) := by
  change Except.ok (Instr.framePresent (unbe16 (be16 n)) (unbe32 (be32 c)) r h a (unbe32 (be32 k))) = _
  rw [unbe16_be16, unbe32_be32, unbe32_be32]

/-- Every byte sequence that decodes is the layout of the frame it decodes to (R87). -/
theorem decode_frame_eq_ok {f : List Byte} {i : Instr} (h : decode (.frame f) = .ok i) :
    (∃ n c x y z k, i = .frameAbsent n c x y z k ∧ f = absentBytes n c x y z k) ∨
    (∃ n c r g a k, i = .framePresent n c r g a k ∧ f = presentBytes n c r g a k) := by
  simp only [decode, decodeFrameBytes] at h
  split at h
  · split_ifs at h with hm
    cases h
    exact .inl ⟨_, _, _, _, _, _, rfl, by simp [absentBytes, absentBody, hm]⟩
  · split_ifs at h with hm
    cases h
    exact .inr ⟨_, _, _, _, _, _, rfl, by simp [presentBytes, presentBody, hm]⟩
  · cases h

theorem encode_of_decode_frame {f : List Byte} {i : Instr} (h : decode (.frame f) = .ok i) : encode i = .frame f := by
  obtain ⟨n, c, x, y, z, k, rfl, rfl⟩ | ⟨n, c, r, g, a, k, rfl, rfl⟩ := decode_frame_eq_ok h
  · rfl
  · rfl

/-! ### The round trips -/

/-- Settles O8: the fields of a command's word are its opcode and immediate, and the fields of a frame's bytes its
operands. -/
theorem decodeOfEncode : Obligations.DecodeOfEncode := by
  intro i
  cases i with
  | nop | crcInit | plPresent | plAbsent | plBuild | encode | decode => exact decode_commandWord_plain rfl
  | crcByte imm8 => exact decode_commandWord_crcByte imm8
  | frameAbsent n c x y z k => exact decode_absentBytes n c x y z k
  | framePresent n c r h a k => exact decode_presentBytes n c r h a k

/-- Settles O9: a word is its two fields, and a byte sequence the layout of its frame. -/
theorem encodeOfDecode : Obligations.EncodeOfDecode := by
  intro c i h
  cases c with
  | cmd w => exact encode_of_decode_cmd h
  | frame f => exact encode_of_decode_frame h

/-- Settles O6: each code is the one the encoder gives. -/
theorem knownCodesDecode : Obligations.KnownCodesDecode :=
  ⟨decodeOfEncode .nop, decodeOfEncode .crcInit, decodeOfEncode (.crcByte 0x31#8), decodeOfEncode .plPresent,
    decodeOfEncode .plAbsent, decodeOfEncode .plBuild, decodeOfEncode .encode, decodeOfEncode .decode,
    decodeOfEncode (.framePresent 7#16 42#32 0xC1#8 0x06#8 ⟨0xAA#8, 0xBB#8, 0xCC#8, 0xDD#8, 0xEE#8, 0xFF#8⟩
      0x0FC0270A#32)⟩

/-! ### Masks, matches and reserved words -/

/-- A command with no immediate has the full mask: it fixes both fields of the word (R92). -/
theorem fullMask_eq_iff (w : Half) (op : Byte) :
    w &&& 0xFFFF#16 = commandWord 0#8 op ↔ imm8Of w = 0#8 ∧ opcodeOf w = op := by
  rw [show 0xFFFF#16 = BitVec.allOnes 16 from rfl, BitVec.and_allOnes]
  constructor
  · rintro rfl
    exact ⟨imm8Of_commandWord 0#8 op, opcodeOf_commandWord 0#8 op⟩
  · rintro ⟨h0, rfl⟩
    rw [← h0, commandWord_fields]

/-- The mask of `CRC_BYTE` keeps the opcode and leaves the immediate free (R92). -/
theorem opcodeMask_eq_iff (w : Half) (op : Byte) : w &&& 0x00FF#16 = commandWord 0#8 op ↔ opcodeOf w = op := by
  rw [← BitVec.toNat_inj, ← BitVec.toNat_inj, toNat_commandWord, toNat_opcodeOf, BitVec.toNat_and]
  simp [Nat.and_two_pow_sub_one_eq_mod w.toNat 8]

/-- Settles O7: each row's mask and match say what the decoder asks of the word's two fields. -/
theorem wordEncodesCommandByMaskAndMatch : Obligations.WordEncodesCommandByMaskAndMatch := by
  intro w i
  rw [decode_cmd_eq_ok_iff, plainCommand_eq_some_iff, ← opcodeMask_eq_iff]
  simp only [and_or_left, ← and_assoc, ← fullMask_eq_iff]
  -- The rows are those of R92 but for their order: the statement lists `CRC_BYTE` third, not first.
  exact or_left_comm.trans (or_congr_right or_left_comm)

theorem mem_opcodes_of_plainCommand_eq_some {op : Byte} {i : Instr} (h : plainCommand op = some i) : op ∈ opcodes := by
  obtain ⟨rfl, -⟩ | ⟨rfl, -⟩ | ⟨rfl, -⟩ | ⟨rfl, -⟩ | ⟨rfl, -⟩ | ⟨rfl, -⟩ | ⟨rfl, -⟩ := plainCommand_eq_some h <;>
    simp [opcodes]

theorem not_reservedWord_of_decode_ok {w : Half} {i : Instr} (h : decode (.cmd w) = .ok i) : ¬ ReservedWord w := by
  obtain ⟨h2, -⟩ | ⟨h0, hp⟩ := decode_cmd_eq_ok_iff.mp h
  · rintro (hop | ⟨hne, -⟩)
    · exact hop (h2 ▸ by decide : opcodeOf w ∈ opcodes)
    · exact hne h2
  · rintro (hop | ⟨-, hne⟩)
    · exact hop (mem_opcodes_of_plainCommand_eq_some hp)
    · exact hne h0

/-- Settles O48: the decoder rejects only reserved words, and what it accepts is not reserved. -/
theorem reservedWordsAreTheUndecodable : Obligations.ReservedWordsAreTheUndecodable := by
  intro w
  constructor
  · rintro ⟨e, h⟩
    exact reservedWord_of_decode_error h
  · intro hr
    cases h : decode (.cmd w) with
    | error e => exact ⟨e, rfl⟩
    | ok i => exact absurd hr (not_reservedWord_of_decode_ok h)

end Sys2Proof
end

section
/-!
PROOFS. Legal frames (R90): the well-formed frame instructions, the byte sequences `decode` accepts, and the outputs of
`encode`.
-/

namespace Sys2Proof.Machine

/-! ### Well-formed frame instructions -/

/-- A frame of a known shape is legal exactly when its checksum field is right (R86, R90). -/
theorem legalFrame_body_crc_iff (n : Half) (c k : Word) {p : List Byte} (h : p.length = 3 ∨ p.length = 8) :
    LegalFrame (frameBody n c p ++ be32 k) ↔ k = crc32 (frameBody n c p) := by
  constructor
  · intro hl
    obtain ⟨n', c', p', -, hf⟩ := legalFrame_eq_frameOf hl
    obtain ⟨hbody, hcrc⟩ := List.append_inj' hf rfl
    rw [hbody]
    exact be32_injective hcrc
  · rintro rfl
    exact legalFrame_frameOf n c h

theorem wellFormed_frameAbsent_iff (n : Half) (c : Word) (x y z : Byte) (k : Word) :
    (Instr.frameAbsent n c x y z k).wellFormed = true ↔ LegalFrame (absentBytes n c x y z k) :=
  beq_iff_eq.trans (legalFrame_body_crc_iff n c k (p := [x, y, z]) (.inl rfl)).symm

theorem wellFormed_framePresent_iff (n : Half) (c : Word) (r h : Byte) (a : Address) (k : Word) :
    (Instr.framePresent n c r h a k).wellFormed = true ↔ LegalFrame (presentBytes n c r h a k) :=
  beq_iff_eq.trans
    (legalFrame_body_crc_iff n c k (p := [r, h, a.b0, a.b1, a.b2, a.b3, a.b4, a.b5]) (.inr rfl)).symm

/-- A frame of a known shape is the layout of one of the two frame instructions (R87). -/
theorem exists_decode_frameOf (n : Half) (c : Word) {p : List Byte} (h : p.length = 3 ∨ p.length = 8) :
    ∃ i, decode (.frame (frameOf n c p)) = .ok i := by
  rcases h with h | h
  · match p, h with
    | [x, y, z], _ => exact ⟨_, decode_absentBytes n c x y z _⟩
  · match p, h with
    | [r, g, a0, a1, a2, a3, a4, a5], _ => exact ⟨_, decode_presentBytes n c r g ⟨a0, a1, a2, a3, a4, a5⟩ _⟩

/-- Settles O10: a frame instruction's bytes are legal exactly when its checksum is right, and a legal frame has the
layout of one. -/
theorem wellFormedFramesAreLegal : Obligations.WellFormedFramesAreLegal := by
  constructor
  · intro f i h
    obtain ⟨n, c, x, y, z, k, rfl, rfl⟩ | ⟨n, c, r, g, a, k, rfl, rfl⟩ := decode_frame_eq_ok h
    · exact wellFormed_frameAbsent_iff n c x y z k
    · exact wellFormed_framePresent_iff n c r g a k
  · intro f h
    obtain ⟨n, c, p, hp, rfl⟩ := legalFrame_eq_frameOf h
    exact exists_decode_frameOf n c hp

/-! ### Accepted byte sequences -/

theorem be32_unbe32_of_length {s : List Byte} (h : s.length = 4) : be32 (unbe32 s) = s := by
  match s, h with
  | [a, b, c, d], _ => exact be32_unbe32 a b c d

/-- Steps 1 to 5 check just what makes a frame legal (R161 to R165, R90). -/
theorem legalFrame_of_parse_ok {f : List Byte} {v : Valid} (h : parse f = .ok v) : LegalFrame f := by
  obtain ⟨hl, hs, hc⟩ := parse_ok h
  obtain ⟨hm, hshape⟩ := lengthAndShape_eq_none.mp hs
  obtain ⟨-, -, -, -, hcrc⟩ := checkSum_ok hc
  rw [show 7 + (f.getD 6 0#8).toNat = f.length - 4 by omega,
    show 11 + (f.getD 6 0#8).toNat = f.length by omega] at hcrc
  refine ⟨by omega, hm.symm, ?_⟩
  rw [hcrc, be32_unbe32_of_length (by rw [slice_length]; omega)]

theorem decodeRaw_ok_of_legalFrame {f : List Byte} (h : LegalFrame f) : ∃ r, decodeRaw f = .ok r := by
  obtain ⟨n, c, p, hp, rfl⟩ := legalFrame_eq_frameOf h
  obtain ⟨body, hb, -⟩ := demux_defined hp
  exact ⟨_, decodeRaw_frameOf n c hp hb⟩

/-- What is no legal frame fails a check of the parser (R166, R201). -/
theorem decodeRaw_error_of_not_legalFrame {f : List Byte} (h : ¬ LegalFrame f) :
    ∃ e : Err, e.raisedBy = .decoder ∧ decodeRaw f = .error e := by
  cases hp : parse f with
  | error e => exact ⟨e, parse_error_raisedBy hp, decodeRaw_error hp⟩
  | ok v => exact absurd (legalFrame_of_parse_ok hp) h

theorem legalFrame_iff_decodeRaw_ok (f : List Byte) : LegalFrame f ↔ ∃ r, decodeRaw f = .ok r := by
  refine ⟨decodeRaw_ok_of_legalFrame, ?_⟩
  rintro ⟨r, hr⟩
  by_contra h
  obtain ⟨e, -, he⟩ := decodeRaw_error_of_not_legalFrame h
  rw [hr] at he
  cases he

/-! ### Outputs of `encode` -/

theorem encodeFrame_eq_ok {n : Half} {c : Word} {p f : List Byte} (h : encodeFrame n c p = .ok f) :
    (p.length = 3 ∨ p.length = 8) ∧ f = frameOf n c p := by
  by_cases hp : p.length = 3 ∨ p.length = 8
  · rw [encodeFrame_legal n c hp] at h
    cases h
    exact ⟨hp, rfl⟩
  · rw [encodeFrame_illegal n c hp] at h
    cases h

theorem legalFrame_iff_encodeFrame_ok (f : List Byte) :
    LegalFrame f ↔ ∃ (n : Half) (c : Word) (p : List Byte), encodeFrame n c p = .ok f := by
  constructor
  · intro h
    obtain ⟨n, c, p, hp, rfl⟩ := legalFrame_eq_frameOf h
    exact ⟨n, c, p, encodeFrame_legal n c hp⟩
  · rintro ⟨n, c, p, h⟩
    obtain ⟨hp, rfl⟩ := encodeFrame_eq_ok h
    exact legalFrame_frameOf n c hp

/-- Settles O34: a legal frame is one `encode` builds, and the parser accepts nothing else. -/
theorem legalFramesAreTheAcceptedOnes : Obligations.LegalFramesAreTheAcceptedOnes :=
  ⟨legalFrame_iff_decodeRaw_ok, legalFrame_iff_encodeFrame_ok, fun _ => decodeRaw_error_of_not_legalFrame⟩

end Sys2Proof.Machine
end

section
/-!
PROOFS. The CRC-32 function: its reference values (R113), the table form (R114), linearity and the errors of one and of
two bits it catches (R115).
-/

namespace Sys2Proof.Machine

/-! ### Reference values and the table form -/

/-- Settles O13: fixed sequences of at most nine bytes, whose checksums the kernel computes. -/
theorem crcReferenceValues : Obligations.CrcReferenceValues := by
  unfold Obligations.CrcReferenceValues
  decide +kernel

/-- The byte enters below bit 8, so the part of the accumulator that is shifted down does not see it (R114). -/
theorem xor_setWidth_ushiftRight (acc : Word) (b : Byte) : (acc ^^^ b.setWidth 32) >>> 8 = acc >>> 8 := by
  have hb : b.setWidth 32 >>> 8 = 0#32 := by
    apply BitVec.eq_of_toNat_eq
    have := b.isLt
    simp only [BitVec.toNat_ushiftRight, BitVec.toNat_setWidth, Nat.shiftRight_eq_div_pow, BitVec.toNat_ofNat]
    omega
  rw [BitVec.ushiftRight_xor_distrib, hb, BitVec.xor_zero]

theorem crcStep_eq_crcStepByTable (acc : Word) (b : Byte) : crcStep acc b = crcStepByTable acc b := by
  rw [crcStep, crcShifts_by_table, xor_setWidth_ushiftRight, crcStepByTable]

theorem crcTableEntry_eq_crcStep_zero (i : Byte) : crcTableEntry i = crcStep 0#32 i := by
  rw [crcStep, BitVec.zero_xor, crcTableEntry]

/-- Settles O14: the low byte of the shifted value goes through the table, and the bits above it only move. -/
theorem crcTableFormIsTheByteStep : Obligations.CrcTableFormIsTheByteStep :=
  ⟨crcStep_eq_crcStepByTable, crcTableEntry_eq_crcStep_zero, by decide, by decide, by decide, by decide, by decide⟩

/-! ### Incremental and affine -/

theorem crcAcc_xorBytes {a e : List Byte} (h : a.length = e.length) :
    crcAcc (xorBytes a e) = crcAcc a ^^^ crcLinear e := by
  have hx := crcAccFrom_xor Config.crcInitVal 0#32 a e h
  rwa [BitVec.xor_zero] at hx

theorem crc32_xorBytes {a e : List Byte} (h : a.length = e.length) :
    crc32 (xorBytes a e) = crc32 a ^^^ crcLinear e := by
  rw [crc32, crcAcc_xorBytes h, crc32, BitVec.xor_assoc, BitVec.xor_comm (crcLinear e), ← BitVec.xor_assoc]

theorem crcLinear_xorBytes {e f : List Byte} (h : e.length = f.length) :
    crcLinear (xorBytes e f) = crcLinear e ^^^ crcLinear f := by
  have hx := crcAccFrom_xor 0#32 0#32 e f h
  rwa [BitVec.xor_zero] at hx

/-- Settles O15: the accumulator is a fold, and linear in its initial value and the bytes together. -/
theorem crcIsIncrementalAndAffine : Obligations.CrcIsIncrementalAndAffine :=
  ⟨crcAccFrom_append _, fun _ _ => crc32_xorBytes, fun _ _ => crcLinear_xorBytes⟩

/-! ### One changed bit

A single bit entered with the `i`-th of `n` bytes is the accumulator 1 shifted as often as there are bits from it to the
end, and a shift step keeps an accumulator from being zero. -/

theorem crcShifts_eq_iterate (n : Nat) : crcShifts n = crcShift^[n] := by
  induction n with
  | zero => rfl
  | succ n ih => funext a; rw [crcShifts, ih, Function.iterate_succ_apply]

theorem crcShifts_add (m n : Nat) (a : Word) : crcShifts (m + n) a = crcShifts m (crcShifts n a) := by
  simp only [crcShifts_eq_iterate, Function.iterate_add_apply]

theorem crcShifts_ne_zero {a : Word} (n : Nat) (h : a ≠ 0#32) : crcShifts n a ≠ 0#32 := mt crcShifts_eq_zero h

theorem crcStep_zero_byte (a : Word) : crcStep a 0#8 = crcShifts 8 a := by
  rw [crcStep, show (0#8).setWidth 32 = 0#32 from rfl, BitVec.xor_zero]

theorem crcAccFrom_replicate_zero (a : Word) (n : Nat) : crcAccFrom a (List.replicate n 0#8) = crcShifts (8 * n) a := by
  induction n generalizing a with
  | zero => rfl
  | succ n ih => rw [List.replicate_succ, crcAccFrom_cons, ih, crcStep_zero_byte, ← crcShifts_add, Nat.mul_succ]

/-- Bit `k` of a byte reaches the low end of the accumulator after `k` of the byte's eight shift steps. -/
theorem crcStep_zero_bit {k : Nat} (hk : k < 8) : crcStep 0#32 (1#8 <<< k) = crcShifts (8 - k) 1#32 := by
  have hlow : crcShifts k ((1#8 <<< k).setWidth 32) = 1#32 := by
    revert k; decide
  rw [← crcTableEntry_eq_crcStep_zero, crcTableEntry, ← hlow, ← crcShifts_add, Nat.sub_add_cancel hk.le]

theorem oneBit_length (n i k : Nat) : (oneBit n i k).length = n := by simp [oneBit]

theorem oneBit_zero (n k : Nat) : oneBit (n + 1) 0 k = (1#8 <<< k) :: List.replicate n 0#8 := rfl

theorem oneBit_succ (n i k : Nat) : oneBit (n + 1) (i + 1) k = 0#8 :: oneBit n i k := rfl

theorem crcLinear_oneBit {n i k : Nat} (hi : i < n) (hk : k < 8) :
    crcLinear (oneBit n i k) = crcShifts (8 * (n - i) - k) 1#32 := by
  induction i generalizing n with
  | zero =>
    obtain ⟨n, rfl⟩ := Nat.exists_eq_add_one.mpr hi
    rw [crcLinear, oneBit_zero, crcAccFrom_cons, crcStep_zero_bit hk, crcAccFrom_replicate_zero, ← crcShifts_add]
    congr 1; omega
  | succ i ih =>
    obtain ⟨n, rfl⟩ := Nat.exists_eq_add_one.mpr (Nat.zero_lt_of_lt hi)
    rw [crcLinear, oneBit_succ, crcAccFrom_cons, crcStep_zero, ← crcLinear, ih (by omega), Nat.add_sub_add_right]

/-- Settles O16: the accumulator 1, shifted, is not zero. -/
theorem crcCatchesEverySingleBit : Obligations.CrcCatchesEverySingleBit := by
  intro n i k _ hi hk
  rw [crcLinear_oneBit hi hk]
  exact crcShifts_ne_zero _ (by decide)

/-! ### Two changed bits

Two bits `d` places apart cancel only if `d` shift steps take 1 back to 1, and 1 does not come back within the bits of
the longest body, 8 * 15. -/

theorem one_not_mem_iterate_crcShift : 1#32 ∉ List.iterate crcShift (crcShift 1#32) 119 := by decide

theorem crcShifts_one_ne_one {d : Nat} (h0 : 0 < d) (hd : d < 120) : crcShifts d 1#32 ≠ 1#32 := by
  obtain ⟨m, rfl⟩ := Nat.exists_eq_add_one.mpr h0
  intro h
  rw [crcShifts, crcShifts_eq_iterate] at h
  exact one_not_mem_iterate_crcShift (List.mem_iterate.mpr ⟨m, by omega, h.symm⟩)

theorem crcShifts_one_xor_ne_zero {p q : Nat} (hpq : p ≠ q) (hp : 0 < p ∧ p ≤ 120) (hq : 0 < q ∧ q ≤ 120) :
    crcShifts p 1#32 ^^^ crcShifts q 1#32 ≠ 0#32 := by
  wlog hlt : p < q generalizing p q
  · rw [BitVec.xor_comm]
    exact this hpq.symm hq hp (by omega)
  obtain ⟨d, rfl⟩ := Nat.exists_eq_add_of_le hlt.le
  rw [crcShifts_add, ← crcShifts_xor]
  refine crcShifts_ne_zero p fun h => ?_
  exact crcShifts_one_ne_one (by omega) (by omega) (BitVec.xor_eq_zero_iff.mp h).symm

/-- Settles O17: by linearity the two bits' contributions, which cancel only if they stand at the same distance from the
end. -/
theorem crcCatchesEveryDoubleBit : Obligations.CrcCatchesEveryDoubleBit := by
  intro n i k j l hn hi hk hj hl hne
  have hplace : 8 * (n - i) - k ≠ 8 * (n - j) - l := by
    intro h
    exact hne (Prod.ext (by simp only; omega) (by simp only; omega))
  rw [crcLinear_xorBytes ((oneBit_length n i k).trans (oneBit_length n j l).symm), crcLinear_oneBit hi hk,
    crcLinear_oneBit hj hl]
  exact crcShifts_one_xor_ne_zero hplace (by omega) (by omega)

end Sys2Proof.Machine
end

section
/-!
PROOFS. The commands of the CRC unit (R116, R117) and the checksum they compute over a script (R119).
-/

namespace Sys2Proof.Machine

/-! ### The two commands -/

theorem exec_crcInit (s : State) : exec .crcInit s = .next { s with crcAcc := Config.crcInitVal } := rfl

theorem exec_crcByte (b : Byte) (s : State) : exec (.crcByte b) s = .next { s with crcAcc := crcStep s.crcAcc b } := rfl

theorem readReg_crcOut (s : State) : readReg .crcOut s = .next (s.crcAcc ^^^ Config.crcXorOut).toNat := rfl

/-- Settles O18: the word is `CRC_INIT`'s own, and its write does not look at the state. -/
theorem crcInitLoadsInitialValue : Obligations.CrcInitLoadsInitialValue := by
  refine ⟨decodeOfEncode .crcInit, fun s => ⟨exec_crcInit s, ?_, ?_⟩, exec_crcInit State.reset⟩
  · rw [exec_crcInit, andThen_next, exec_crcInit]
  · rw [exec_crcInit, andThen_next, readReg_crcOut, Config.crcInitVal, Config.crcXorOut, BitVec.xor_self]; rfl

theorem toNat_commandWord_crcByte (b : Byte) : (commandWord b 0x02#8).toNat = b.toNat * 256 + 2 :=
  toNat_commandWord b 0x02#8

theorem ofNat_eq_commandWord_crcByte (b : Byte) : BitVec.ofNat 16 (b.toNat * 256 + 2) = commandWord b 0x02#8 := by
  rw [← toNat_commandWord_crcByte, BitVec.ofNat_toNat, BitVec.setWidth_eq]

/-- Settles O19: the word is `CRC_BYTE`'s own, and its write is one byte step. -/
theorem crcByteAbsorbsImmediate : Obligations.CrcByteAbsorbsImmediate := by
  refine ⟨fun b => ?_, exec_crcByte, by decide, by decide, fun s h => ?_⟩
  · rw [ofNat_eq_commandWord_crcByte, decode_commandWord_crcByte]
  · rw [readReg_crcOut, h]; rfl

/-! ### What a transaction feeds -/

theorem scriptCmd_crcByte (b : Byte) : scriptCmd (.crcByte b) = .wr 0 (b.toNat * 256 + 2) :=
  congrArg (Txn.wr 0) (toNat_commandWord_crcByte b)

@[simp] theorem fedByte_scriptCmd_crcByte (b : Byte) : fedByte (scriptCmd (.crcByte b)) = some b := by
  have hb := b.isLt
  have hdiv : (b.toNat * 256 + 2) / 256 = b.toNat := by omega
  rw [scriptCmd_crcByte, fedByte, if_pos (by omega), hdiv, BitVec.ofNat_toNat, BitVec.setWidth_eq]

/-- Only `CRC_BYTE` feeds a byte (R93). -/
theorem eq_scriptCmd_of_fedByte {x : Txn} {b : Byte} (h : fedByte x = some b) : x = scriptCmd (.crcByte b) := by
  unfold fedByte at h
  split at h
  next v =>
    split_ifs at h with hv
    cases h
    rw [scriptCmd_crcByte, BitVec.toNat_ofNat]
    congr 1; omega
  next => cases h

theorem runTxn_scriptCmd_crcInit (s : State) :
    runTxn (scriptCmd .crcInit) s = .next { s with crcAcc := Config.crcInitVal } :=
  runTxn_scriptCmd s rfl (decodeOfEncode .crcInit)

theorem runTxn_scriptCmd_crcByte (b : Byte) (s : State) :
    runTxn (scriptCmd (.crcByte b)) s = .next { s with crcAcc := crcStep s.crcAcc b } :=
  runTxn_scriptCmd s rfl (decodeOfEncode (.crcByte b))

/-- A transaction that is neither `CRC_INIT` nor `RESET` moves the accumulator over the byte it feeds, if it feeds one
(R117, R120). -/
theorem runTxn_crcAcc {x : Txn} {s t : State} (h : runTxn x s = .next t) (hr : x ≠ .reset)
    (hi : x ≠ scriptCmd .crcInit) : t.crcAcc = crcAccFrom s.crcAcc (fedByte x).toList := by
  cases hf : fedByte x with
  | some b =>
    rw [eq_scriptCmd_of_fedByte hf, runTxn_scriptCmd_crcByte] at h
    cases h; rfl
  | none =>
    obtain h | h | h | ⟨b, h⟩ := (runTxn_writes h).crcAcc_eq
    · exact h
    · exact absurd h hr
    · exact absurd h hi
    · rw [h, fedByte_scriptCmd_crcByte] at hf; cases hf

/-! ### Over a script -/

theorem runScript_crcAcc {ts : List Txn} {s t : State} (hts : ∀ x ∈ ts, x ≠ .reset ∧ x ≠ scriptCmd .crcInit)
    (h : runScript ts s = .next t) : t.crcAcc = crcAccFrom s.crcAcc (ts.filterMap fedByte) := by
  induction ts generalizing s with
  | nil => cases h; rfl
  | cons x ts ih =>
    obtain ⟨u, hu, ht⟩ := andThen_eq_next h
    obtain ⟨⟨hr, hi⟩, hrest⟩ := List.forall_mem_cons.mp hts
    rw [ih hrest ht, runTxn_crcAcc hu hr hi, ← crcAccFrom_append]
    cases hf : fedByte x with
    | none => rw [List.filterMap_cons_none hf]; rfl
    | some b => rw [List.filterMap_cons_some hf]; rfl

/-- Both openings leave the initial value (R116, R231). -/
theorem runTxn_opening_crcAcc {x : Txn} {s u : State} (hx : x = scriptCmd .crcInit ∨ x = .reset)
    (h : runTxn x s = .next u) : u.crcAcc = Config.crcInitVal := by
  obtain rfl | rfl := hx
  · rw [runTxn_scriptCmd_crcInit] at h; cases h; rfl
  · cases h; rfl

theorem filterMap_fedByte_scriptCrcBytes (bytes : List Byte) : (scriptCrcBytes bytes).filterMap fedByte = bytes := by
  simp [scriptCrcBytes, List.filterMap_map]

theorem runScript_scriptCrcBytes (bytes : List Byte) (s : State) :
    runScript (scriptCrcBytes bytes) s = .next { s with crcAcc := crcAccFrom s.crcAcc bytes } := by
  induction bytes generalizing s with
  | nil => rfl
  | cons b bytes ih =>
    rw [scriptCrcBytes, List.map_cons, runScript, runTxn_scriptCmd_crcByte, andThen_next, ← scriptCrcBytes, ih]; rfl

/-- Settles O20: the opening loads the initial value, and each transaction after it moves the accumulator over what it
feeds. -/
theorem streamingComputesCrc32 : Obligations.StreamingComputesCrc32 := by
  constructor
  · intro ts s t first hfirst hts h
    obtain ⟨u, hu, ht⟩ := andThen_eq_next h
    have hacc : t.crcAcc = crcAcc (ts.filterMap fedByte) := by
      rw [runScript_crcAcc hts ht, runTxn_opening_crcAcc hfirst hu, crcAcc]
    exact ⟨hacc, by rw [readReg_crcOut, hacc, crc32]⟩
  · intro bytes s
    refine ⟨filterMap_fedByte_scriptCrcBytes bytes, ?_⟩
    rw [runScript, runTxn_scriptCmd_crcInit, andThen_next, runScript_scriptCrcBytes, crcAcc]

end Sys2Proof.Machine
end

section
/-!
PROOFS. What the payload commands build in `PLBUF` (R131, R132, R136 to R138).
-/

namespace Sys2Proof.Machine

/-! ### A stored payload -/

/-- From `s` to `t` a payload was put at the start of `PLBUF` and its length in `PL_LEN`, every further byte of `PLBUF`
reading as before and nothing else changed (R136, R137). -/
def PayloadBuilt (p : List Byte) (s t : State) : Prop :=
  HoldsBytes t.plbuf 0 p ∧ (∀ i, p.length ≤ i → t.plbuf.read i = s.plbuf.read i) ∧
    t.plLen = BitVec.ofNat 8 p.length ∧ OnlyPayloadChanged s t

theorem presentBuilt_iff {s t : State} {rssi chan : Byte} {a : Address} :
    PresentBuilt s t rssi chan a ↔ PayloadBuilt [rssi, chan, a.b0, a.b1, a.b2, a.b3, a.b4, a.b5] s t := Iff.rfl

theorem absentBuilt_iff {s t : State} {na : Byte} : AbsentBuilt s t na ↔ PayloadBuilt [na, na, na] s t := Iff.rfl

theorem payloadStored_read_of_ge (p : List Byte) (s : State) {i : Nat} (h : p.length ≤ i) :
    (payloadStored p s).plbuf.read i = s.plbuf.read i := by
  rw [payloadStored, Memory.read_writeBytes, if_neg (by omega)]

theorem payloadBuilt_payloadStored (p : List Byte) (s : State) : PayloadBuilt p s (payloadStored p s) :=
  ⟨holdsBytes_writeBytes _ _ _, fun _ => payloadStored_read_of_ge p s, rfl, rfl⟩

theorem OnlyPayloadChanged.trans {s t u : State} (h₁ : OnlyPayloadChanged s t) (h₂ : OnlyPayloadChanged t u) :
    OnlyPayloadChanged s u := by
  rw [OnlyPayloadChanged, h₂, h₁]

theorem PayloadBuilt.trans {p q : List Byte} {s t u : State} (h₁ : PayloadBuilt p s t) (h₂ : PayloadBuilt q t u)
    (hl : p.length ≤ q.length) : PayloadBuilt q s u := by
  obtain ⟨-, hrest₁, -, honly₁⟩ := h₁
  obtain ⟨hbytes, hrest₂, hlen, honly₂⟩ := h₂
  exact ⟨hbytes, fun i hi => (hrest₂ i hi).trans (hrest₁ i (hl.trans hi)), hlen, honly₁.trans honly₂⟩

/-! ### `PL_PRESENT` -/

theorem payloadPresent_sint8 (rssi chan : Byte) (a : Address) :
    payloadPresent (sint8 rssi) chan a = [rssi, chan, a.b0, a.b1, a.b2, a.b3, a.b4, a.b5] := by
  rw [payloadPresent, twos8_sint8, addressBytes]

theorem presentOperands_of_defined {s : State} {rssi chan : Byte} {a : Address}
    (h : PresentOperandsAre s rssi chan a) :
    presentOperands s = .next [rssi, chan, a.b0, a.b1, a.b2, a.b3, a.b4, a.b5] := by
  obtain ⟨hr, hc, h0, h1, h2, h3, h4, h5⟩ := h
  simp only [presentOperands, hr, hc, h0, h1, h2, h3, h4, h5, need_defined, andThen_next]

theorem exec_plPresent_of_defined {s : State} {rssi chan : Byte} {a : Address}
    (h : PresentOperandsAre s rssi chan a) :
    exec .plPresent s = .next (payloadStored [rssi, chan, a.b0, a.b1, a.b2, a.b3, a.b4, a.b5] s) := by
  rw [exec, execPlPresent, buildPresent, presentOperands_of_defined h, andThen_next, storePayload_eq s (by simp)]

theorem PresentOperandsAre.payloadStored {s : State} {rssi chan : Byte} {a : Address}
    (h : PresentOperandsAre s rssi chan a) (p : List Byte) : PresentOperandsAre (payloadStored p s) rssi chan a := h

/-- Settles O23: the eight operands are stored, and since the store leaves them alone a second run stores them again. -/
theorem plPresentBuildsPayload : Obligations.PlPresentBuildsPayload := by
  refine ⟨decodeOfEncode .plPresent, fun s rssi chan a h => ⟨?_, payloadPresent_sint8 rssi chan a⟩⟩
  have hfirst := payloadBuilt_payloadStored [rssi, chan, a.b0, a.b1, a.b2, a.b3, a.b4, a.b5] s
  exact ⟨_, exec_plPresent_of_defined h, presentBuilt_iff.2 hfirst,
    _, exec_plPresent_of_defined (h.payloadStored _),
    presentBuilt_iff.2 (hfirst.trans (payloadBuilt_payloadStored _ _) le_rfl)⟩

/-! ### `PL_ABSENT` -/

theorem exec_plAbsent_of_defined {s : State} {na : Byte} (h : s.measNa = .defined na) :
    exec .plAbsent s = .next (payloadStored [na, na, na] s) := by
  rw [exec, execPlAbsent, buildAbsent, absentOperands, h, need_defined, andThen_next, andThen_next,
    storePayload_eq s (by simp)]

/-- Settles O24: `MEAS_NA` is stored three times, and the store touches nothing beyond. -/
theorem plAbsentBuildsPayload : Obligations.PlAbsentBuildsPayload :=
  ⟨decodeOfEncode .plAbsent, fun s na h =>
    ⟨⟨_, exec_plAbsent_of_defined h, absentBuilt_iff.2 (payloadBuilt_payloadStored [na, na, na] s)⟩, rfl⟩⟩

/-! ### `PL_BUILD` -/

theorem exec_plBuild_of_found {s : State} (h : s.measFound = .defined 1#1) :
    exec .plBuild s = exec .plPresent s :=
  (execPlBuild_of_defined h).trans (if_pos rfl)

theorem exec_plBuild_of_notFound {s : State} (h : s.measFound = .defined 0#1) :
    exec .plBuild s = exec .plAbsent s :=
  (execPlBuild_of_defined h).trans (if_neg (by decide))

/-- Settles O25: `PL_BUILD` is the command of the branch `MEAS_FOUND` selects. -/
theorem plBuildSelectsByMeasFound : Obligations.PlBuildSelectsByMeasFound := by
  refine ⟨decodeOfEncode .plBuild, fun s rssi chan a hf h => ?_, fun s na hf h => ?_,
    fun s => ⟨exec_plBuild_of_found, exec_plBuild_of_notFound⟩⟩
  · rw [exec_plBuild_of_found hf]
    exact ⟨_, exec_plPresent_of_defined h, presentBuilt_iff.2 (payloadBuilt_payloadStored _ s)⟩
  · rw [exec_plBuild_of_notFound hf]
    exact ⟨_, exec_plAbsent_of_defined h, absentBuilt_iff.2 (payloadBuilt_payloadStored _ s)⟩

end Sys2Proof.Machine
end

section
/-!
PROOFS. The frame encoder: the function `encode` (R146, R150, R151, R154) and what `ENCODE` leaves behind (R152, R153).
-/

namespace Sys2Proof.Machine

/-! ### The function -/

/-- No part of a frame is lost: the three arguments stand in it at their offsets (R154 c, d). -/
theorem frameOf_injective {n m : Half} {c d : Word} {p q : List Byte} (h : frameOf n c p = frameOf m d q) :
    n = m ∧ c = d ∧ p = q := by
  have hlen : p.length = q.length := by simpa using congrArg List.length h
  refine ⟨be16_injective ?_, be32_injective ?_, ?_⟩
  · rw [← frameOf_nodeId n c p, h, frameOf_nodeId]
  · rw [← frameOf_msgCnt n c p, h, frameOf_msgCnt]
  · rw [← frameOf_payload n c p, h, hlen, frameOf_payload]

/-- Settles O31: a success is the frame of R146, in which each argument stands at its offset. -/
theorem encodeFunctionLaws : Obligations.EncodeFunctionLaws := by
  refine ⟨fun n c p => ⟨fun ⟨f, h⟩ => (encodeFrame_eq_ok h).1, fun hp => ⟨_, encodeFrame_legal n c hp⟩⟩,
    fun n c p f h => ?_, fun n m c d p q f hn hm => ?_⟩
  · obtain ⟨hp, rfl⟩ := encodeFrame_eq_ok h
    exact ⟨frameOf_length n c p, by rw [frameOf_msgLen, toNat_ofNat_of_shape hp], frameOf_nodeId n c p,
      frameOf_msgCnt n c p, frameOf_payload n c p⟩
  · obtain ⟨-, rfl⟩ := encodeFrame_eq_ok hn
    obtain ⟨-, hf⟩ := encodeFrame_eq_ok hm
    exact frameOf_injective hf

theorem encodeWith_of_not_mem {shapes : List Nat} {p : List Byte} (frameMax : Nat) (n : Half) (c : Word)
    (h : p.length ∉ shapes) : encodeWith shapes frameMax n c p = .error .formatError := if_pos h

/-- The size check is reached by a payload of a listed length only, and depends on that length only (R150, R151). -/
theorem encodeWith_eq_sizeError_iff {shapes : List Nat} {frameMax : Nat} {n : Half} {c : Word} {p : List Byte} :
    encodeWith shapes frameMax n c p = .error .sizeError ↔ p.length ∈ shapes ∧ 11 + p.length > frameMax := by
  by_cases hp : p.length ∈ shapes
  · rw [encodeWith, if_neg (not_not_intro hp), frameOf_length]
    split_ifs with hsize <;> simp [hp, hsize]
  · simp [encodeWith_of_not_mem frameMax n c hp, hp]

theorem encodeFrame_ne_sizeError (n : Half) (c : Word) (p : List Byte) : encodeFrame n c p ≠ .error .sizeError := by
  intro h
  obtain ⟨hp, hsize⟩ := encodeWith_eq_sizeError_iff.1 h
  simp at hp hsize
  omega

theorem exists_encodeWith_eq_sizeError_iff (shapes : List Nat) (frameMax : Nat) :
    (∃ (n : Half) (c : Word) (p : List Byte), encodeWith shapes frameMax n c p = .error .sizeError) ↔
      ∃ l ∈ shapes, 11 + l > frameMax := by
  simp only [encodeWith_eq_sizeError_iff]
  constructor
  · rintro ⟨-, -, p, hp, hsize⟩
    exact ⟨p.length, hp, hsize⟩
  · rintro ⟨l, hl, hsize⟩
    exact ⟨0#16, 0#32, List.replicate l 0#8, by simpa using ⟨hl, hsize⟩⟩

/-! ### The command -/

/-- A completed `ENCODE` raised `FormatError`, or put the frame of a legal payload (R152, R153). -/
theorem encode_effect {s t : State} (h : execEncode s = .next t) :
    t = raise .formatError s ∨ ∃ n c p, t = framePut (frameOf n c p) s := by
  obtain ⟨-, h1⟩ | ⟨n, c, p, -, -, -, -, -, h1⟩ | ⟨-, -, loc, h1⟩ := execEncode_cases s <;> rw [h1] at h <;> cases h
  · exact .inl rfl
  · exact .inr ⟨n, c, p, rfl⟩

/-- Settles O30: the size check asks for a listed length that is too long, and `ENCODE` leaves code 1 or 2. -/
theorem sizeErrorReachableOnlyByParameters : Obligations.SizeErrorReachableOnlyByParameters := by
  refine ⟨encodeFrame_ne_sizeError, exists_encodeWith_eq_sizeError_iff,
    fun _ frameMax n c _ h => encodeWith_of_not_mem frameMax n c h, fun s t h => ?_⟩
  obtain rfl | ⟨n, c, p, rfl⟩ := encode_effect h
  · show Err.formatError.code ≠ Err.sizeError.code
    decide
  · show statusOk ≠ Err.sizeError.code
    decide

/-- Settles O27: the inputs are all there, so the frame is put. -/
theorem encodeBuildsFrame : Obligations.EncodeBuildsFrame := by
  intro s n c p hp hl hb hn hc
  have hlen : (frameOf n c p).length = 11 + p.length := frameOf_length n c p
  exact ⟨_, execEncode_legal hp hl hb hn hc, framePut_holdsExactly (frameOf n c p) s,
    (framePut_txLen s (by omega)).trans hlen, rfl, rfl⟩

/-- The two legal values of `PL_LEN`, as the register's bits. -/
theorem toNat_eq_shape_iff (b : Byte) : (b.toNat = 3 ∨ b.toNat = 8) ↔ (b = 3#8 ∨ b = 8#8) := by bv_omega

/-- After `FormatError` there is no frame to send (R153). -/
theorem raise_formatError_noFrame (s : State) :
    (raise .formatError s).txLen = 0#9 ∧ HoldsExactly (raise .formatError s).txbuf [] ∧
      OnlyEncoderChanged s (raise .formatError s) :=
  ⟨rfl, raise_formatError_holdsExactly s, raise_onlyEncoder rfl s⟩

/-- Settles O28: the format check comes before every other read, and no later step of `ENCODE` fails. -/
theorem encodeRefusesOtherLengths : Obligations.EncodeRefusesOtherLengths := by
  refine ⟨fun s h3 h8 => ?_, fun s t h hst => ?_, fun n c p h3 h8 => encodeFrame_illegal n c (not_or.2 ⟨h3, h8⟩)⟩
  · have hlen : ¬ (s.plLen.toNat = 3 ∨ s.plLen.toNat = 8) := (toNat_eq_shape_iff _).not.2 (not_or.2 ⟨h3, h8⟩)
    exact ⟨_, execEncode_illegal hlen, rfl, raise_formatError_noFrame s⟩
  · obtain rfl | ⟨n, c, p, rfl⟩ := encode_effect h
    · exact ⟨.inl rfl, raise_formatError_noFrame s⟩
    · exact absurd rfl hst

theorem HoldsBytes.read_ne_none {m : Memory} {bs : List Byte} {k : Nat} (h : HoldsBytes m 0 bs) (hk : k < bs.length) :
    m.read k ≠ none := by
  have hread := h k hk
  rw [Nat.zero_add, List.getElem?_eq_getElem hk] at hread
  simp [hread]

/-- Settles O29: with a legal length `ENCODE` completes when every input is there, and is refused otherwise. -/
theorem encodeNeedsItsOperands : Obligations.EncodeNeedsItsOperands := by
  intro s
  rw [← toNat_eq_shape_iff, exec]
  obtain ⟨hlen, h⟩ | ⟨n, c, p, -, hl, hb, hn, hc, h⟩ | ⟨hlen, hmiss, loc, h⟩ := execEncode_cases s
  · exact iff_of_false (h ▸ not_readRefused_next _) fun hr => hlen hr.1
  · refine iff_of_false (h ▸ not_readRefused_next _) ?_
    rintro ⟨-, ⟨k, hk, hnone⟩ | hinv | hinv⟩
    · exact hb.read_ne_none (hl ▸ hk) hnone
    · simp [hn] at hinv
    · simp [hc] at hinv
  · exact iff_of_true ⟨loc, h⟩ ⟨hlen, hmiss⟩

end Sys2Proof.Machine
end

section
/-!
PROOFS. An encoded frame gives its packet back (R171): on the function layer, through one block's own loop, and at
another block.
-/

namespace Sys2Proof.Machine

/-- Settles O35: the parser finds each field where the encoder put it, and `demux` is defined on both shapes. -/
theorem decodeOfEncodedFrame : Obligations.DecodeOfEncodedFrame := by
  intro n c p hp
  obtain ⟨body, hb, hbytes⟩ := demux_defined hp
  exact ⟨_, body, encodeFrame_legal n c hp, parse_frameOf n c hp, hb, hbytes, decodeRaw_frameOf n c hp hb⟩

/-! ### Through one block -/

/-- Copying defined bytes of `TXBUF` puts them at the same offsets of `RXBUF`; the host has read them on the way (R102). -/
theorem copyTxFrom_of_holds {i : Nat} {bs : List Byte} {s : State} (hin : i + bs.length ≤ 256)
    (h : HoldsBytes s.txbuf i bs) :
    copyTxFrom i bs.length s =
      .next (noteReturned (bs.map BitVec.toNat) (s.setBuf .rxbuf (s.rxbuf.writeBytes i bs))) := by
  induction bs generalizing i s with
  | nil => simp [copyTxFrom, noteReturned, State.setBuf, Memory.writeBytes]
  | cons b bs ih =>
    rw [List.length_cons] at hin
    have hhead : memRead .txbuf i 1 s = .next [b] :=
      memRead_of_holds (bs := [b]) (by simp [bufSize]; omega) (holdsBytes_take (n := 1) h)
    have htail : HoldsBytes s.txbuf (i + 1) bs := fun k hk => by
      have hread := h (k + 1) (by simpa using hk)
      rwa [← Nat.add_assoc, Nat.add_right_comm] at hread
    rw [List.length_cons, copyTxFrom, hhead, andThen_next, memWrite_inside _ (by simp [bufSize]; omega), andThen_next]
    refine (ih (s := (noteReturned [b.toNat] s).setBuf .rxbuf (s.rxbuf.writeBytes i [b])) (by omega) htail).trans ?_
    simp [noteReturned, State.setBuf, Memory.writeBytes]

/-- `TX2RX` of a frame loads it as `LOADRX` does (R102). -/
theorem copyTxToRx_of_holds {f : List Byte} {s : State} (hl : s.txLen.toNat = f.length) (hf : f.length ≤ 256)
    (h : HoldsBytes s.txbuf 0 f) : copyTxToRx s = .next (loaded f (noteReturned (f.map BitVec.toNat) s)) := by
  rw [copyTxToRx, hl, copyTxFrom_of_holds (by omega) h, andThen_next]
  refine (runTxn_scriptWrite_rxLen _ (by omega)).trans ?_
  rw [storeRxLen_of_le _ hf]
  rfl

theorem HoldsExactly.holdsBytes {m : Memory} {bs : List Byte} (h : HoldsExactly m bs) : HoldsBytes m 0 bs :=
  fun k _ => (Nat.zero_add k).symm ▸ h k

/-- A frame just put in `TXBUF` goes through `TX2RX` whole. -/
theorem runTxn_tx2rx_framePut {f : List Byte} (s : State) (hf : f.length ≤ 256) :
    runTxn .tx2rx (framePut f s) = .next (loaded f (noteReturned (f.map BitVec.toNat) (framePut f s))) :=
  copyTxToRx_of_holds (framePut_txLen s hf) hf (framePut_holdsExactly f s).holdsBytes

/-- Settles O44: `ENCODE` puts the frame, `TX2RX` loads it, and `DECODE` gives what `decode` gives for it. -/
theorem loopBackRecoversThePacket : Obligations.LoopBackRecoversThePacket := by
  intro s n c p hp hl hb hn hc
  have hf : (frameOf n c p).length ≤ 256 := by rw [frameOf_length]; omega
  obtain ⟨body, hbody, hbytes⟩ := demux_defined hp
  obtain ⟨t, ht, hd, -⟩ := execDecode_decodedAs
    (loaded_rxLen (noteReturned ((frameOf n c p).map BitVec.toNat) (framePut (frameOf n c p) s)) hf) (loaded_holds _ _)
  rw [decodeRaw_frameOf n c hp hbody] at hd
  refine ⟨t, body, ?_, hbody, hbytes, hd⟩
  have hencode : runTxn (scriptCmd .encode) s = .next (framePut (frameOf n c p) s) :=
    (runTxn_scriptCmd (i := .encode) s rfl rfl).trans (execEncode_legal hp hl hb hn hc)
  have hdecode (u : State) : runTxn (scriptCmd .decode) u = execDecode u := runTxn_scriptCmd (i := .decode) u rfl rfl
  simp only [runScript, hencode, runTxn_tx2rx_framePut s hf, hdecode, ht, andThen_next]

/-! ### At another block -/

/-- An `ENCODE` that ends with `OK` has put the frame of its inputs (R152). -/
theorem execEncode_ok {s t : State} (h : execEncode s = .next t) (hok : t.encStatus = statusOk) :
    ∃ n c p, (p.length = 3 ∨ p.length = 8) ∧ s.plLen.toNat = p.length ∧ HoldsBytes s.plbuf 0 p ∧
      s.nodeId = .defined n ∧ s.msgCnt = .defined c ∧ t = framePut (frameOf n c p) s := by
  obtain ⟨-, h1⟩ | ⟨n, c, p, hp, hl, hb, hn, hc, h1⟩ | ⟨-, -, loc, h1⟩ := execEncode_cases s <;> rw [h1] at h <;> cases h
  · cases hok
  · exact ⟨n, c, p, hp, hl, hb, hn, hc, rfl⟩

/-- Settles O45: `TXBUF` holds the frame of the sender's inputs, and the receiver's `decode` of it gives them back
(the receive transaction is the model's, log entry 3). -/
theorem otherInstanceAcceptsEncodedFrame : Obligations.OtherInstanceAcceptsEncodedFrame := by
  intro s s' g f h hok hf
  obtain ⟨n, c, p, hp, hl, hb, hn, hc, rfl⟩ := execEncode_ok h hok
  obtain rfl := holdsExactly_unique hf (framePut_holdsExactly _ s)
  obtain ⟨body, hbody, rfl⟩ := demux_defined hp
  obtain ⟨g', hg, -, hd⟩ := receiveRaw_received (raw := frameOf n c body.bytes) g (by rw [frameOf_length]; omega)
  rw [decodeRaw_frameOf n c hp hbody] at hd
  exact ⟨g', _, (runTxn_receive _ g).trans hg, hd, hn, hc, hb, hl⟩

end Sys2Proof.Machine
end

section
/-!
PROOFS. The outcomes of the function `decode`: by length and `msg_len` byte (R170), and on a legal frame with one bit
flipped (R172).
-/

namespace Sys2Proof.Machine

/-! ### By length and `msg_len` byte -/

theorem decodeRaw_short {raw : List Byte} (h : raw.length < 11) : decodeRaw raw = .error .tooShort :=
  decodeRaw_error (parse_short h)

theorem decodeRaw_lengthMismatch {raw : List Byte} (h : 11 ≤ raw.length)
    (hm : raw.length - 11 ≠ (raw.getD 6 0#8).toNat) : decodeRaw raw = .error .lengthMismatch :=
  decodeRaw_error (parse_lengthAndShape h (lengthAndShape_mismatch hm))

theorem decodeRaw_unknownShape {raw : List Byte} (h : 11 ≤ raw.length) (h14 : raw.length ≠ 14) (h19 : raw.length ≠ 19)
    (hm : raw.length - 11 = (raw.getD 6 0#8).toNat) : decodeRaw raw = .error .unknownPayloadShape :=
  decodeRaw_error (parse_lengthAndShape h (lengthAndShape_unknown hm (by omega) (by omega)))

/-- A byte holds no payload length of 256 or more. -/
theorem decodeRaw_beyond_msgLen {raw : List Byte} (h : 267 ≤ raw.length) : decodeRaw raw = .error .lengthMismatch :=
  decodeRaw_lengthMismatch (by omega) (by have := (raw.getD 6 0#8).isLt; omega)

/-- Step 5 is the last check of a sequence of a known shape (R165). -/
theorem decodeRaw_checksumFailed {raw : List Byte} (hl : raw.length = 14 ∨ raw.length = 19)
    (hm : raw.length - 11 = (raw.getD 6 0#8).toNat)
    (hc : crc32 (slice raw 0 (raw.length - 4)) ≠ unbe32 (slice raw (raw.length - 4) raw.length)) :
    decodeRaw raw = .error .checksumFailed := by
  apply decodeRaw_error
  rw [parse_checkSum (by omega) (lengthAndShape_eq_none.2 ⟨hm, by omega⟩), checkSum]
  refine if_pos ?_
  rwa [show 7 + (raw.getD 6 0#8).toNat = raw.length - 4 by omega,
    show 11 + (raw.getD 6 0#8).toNat = raw.length by omega]

/-- Step 5 compares numbers; R90 compares the field's bytes. -/
theorem legalFrame_of_crc_eq {raw : List Byte} (hl : raw.length = 14 ∨ raw.length = 19)
    (hm : raw.length - 11 = (raw.getD 6 0#8).toNat)
    (hc : crc32 (slice raw 0 (raw.length - 4)) = unbe32 (slice raw (raw.length - 4) raw.length)) : LegalFrame raw :=
  ⟨hl, hm.symm, by rw [hc, be32_unbe32_of_length (by rw [slice_length]; omega)]⟩

theorem exists_eq_absent_iff (body : Body) : (∃ x y z, body = .absent x y z) ↔ body.bytes.length = 3 := by
  cases body <;> simp [Body.bytes, payloadPresent, addressBytes]

theorem exists_eq_present_iff (body : Body) : (∃ rssi h a, body = .present rssi h a) ↔ body.bytes.length = 8 := by
  cases body <;> simp [Body.bytes, payloadPresent, addressBytes]

/-- An accepted frame's record has as many payload bytes as the frame (R170, R187). -/
theorem decodeRaw_of_legalFrame {f : List Byte} (h : LegalFrame f) :
    ∃ r, decodeRaw f = .ok r ∧ f.length = 11 + r.body.bytes.length := by
  obtain ⟨n, c, p, hp, rfl⟩ := legalFrame_eq_frameOf h
  obtain ⟨body, hb, rfl⟩ := demux_defined hp
  exact ⟨_, decodeRaw_frameOf n c hp hb, frameOf_length n c _⟩

/-- Settles O33: one clause for each check of the parser, and the shape of an accepted frame follows from its length. -/
theorem decodeOutcomeByLength : Obligations.DecodeOutcomeByLength := by
  intro raw
  refine ⟨fun h => decodeRaw_short (by omega), decodeRaw_lengthMismatch, decodeRaw_unknownShape, decodeRaw_beyond_msgLen,
    fun hl hm => ⟨decodeRaw_checksumFailed hl hm, fun hc => ?_⟩⟩
  obtain ⟨r, hr, hlen⟩ := decodeRaw_of_legalFrame (legalFrame_of_crc_eq hl hm hc)
  exact ⟨r, hr, by rw [exists_eq_absent_iff]; omega, by rw [exists_eq_present_iff]; omega⟩

/-! ### One flipped bit -/

@[simp] theorem flipBit_length (f : List Byte) (i k : Nat) : (flipBit f i k).length = f.length := by simp [flipBit]

theorem flipBit_getD_self {f : List Byte} {i k : Nat} (hi : i < f.length) :
    (flipBit f i k).getD i 0#8 = f.getD i 0#8 ^^^ (1#8 <<< k) := by
  rw [flipBit, List.getD_eq_getElem?_getD, List.getElem?_set_self hi, Option.getD_some]

theorem flipBit_getD_other (f : List Byte) {i j k : Nat} (hij : i ≠ j) : (flipBit f i k).getD j 0#8 = f.getD j 0#8 := by
  rw [flipBit, List.getD_eq_getElem?_getD, List.getElem?_set_ne hij, ← List.getD_eq_getElem?_getD]

theorem xor_ne_self {w : Nat} {x y : BitVec w} (h : y ≠ 0#w) : x ^^^ y ≠ x :=
  fun hx => h ((BitVec.xor_right_inj x).1 (hx.trans BitVec.xor_zero.symm))

theorem bit_ne_zero {k : Nat} (hk : k < 8) : (1#8 <<< k) ≠ 0#8 := by
  revert k; decide

theorem flipBit_ne_self {f : List Byte} {i k : Nat} (hi : i < f.length) (hk : k < 8) : flipBit f i k ≠ f := by
  intro h
  apply xor_ne_self (x := f.getD i 0#8) (bit_ne_zero hk)
  rw [← flipBit_getD_self hi, h]

theorem getD_slice (f : List Byte) {i a b : Nat} (ha : a ≤ i) (hb : i < b) :
    (slice f a b).getD (i - a) 0#8 = f.getD i 0#8 := by
  simp only [slice, List.getD_eq_getElem?_getD, List.getElem?_take, List.getElem?_drop]
  rw [if_pos (by omega), Nat.add_sub_cancel' ha]

theorem slice_flipBit_inside (f : List Byte) {i a b : Nat} (k : Nat) (ha : a ≤ i) (hb : i < b) :
    slice (flipBit f i k) a b = flipBit (slice f a b) (i - a) k := by
  rw [flipBit, flipBit, getD_slice f ha hb, slice, slice, List.drop_set, if_neg (by omega), List.take_set]

theorem slice_flipBit_before (f : List Byte) {i a : Nat} (b k : Nat) (hi : i < a) :
    slice (flipBit f i k) a b = slice f a b := by
  rw [flipBit, slice, slice, List.drop_set_of_lt hi]

theorem slice_flipBit_after (f : List Byte) {i b : Nat} (a k : Nat) (hi : b ≤ i) :
    slice (flipBit f i k) a b = slice f a b := by
  rw [flipBit, slice, slice, List.drop_set]
  split_ifs
  · rfl
  · exact List.take_set_of_le (by omega)

theorem flipBit_eq_xorBytes {s : List Byte} {i : Nat} (k : Nat) (hi : i < s.length) :
    flipBit s i k = xorBytes s (oneBit s.length i k) := by
  refine List.ext_getElem (by simp [xorBytes, oneBit]) fun j hj _ => ?_
  by_cases hij : i = j
  · subst hij; simp [flipBit, xorBytes, oneBit, hi]
  · simp [flipBit, xorBytes, oneBit, hij]

/-- A flipped bit changes the checksum (R115 c, d). -/
theorem crc32_flipBit_ne {s : List Byte} {i k : Nat} (hi : i < s.length) (hk : k < 8) :
    crc32 (flipBit s i k) ≠ crc32 s := by
  rw [flipBit_eq_xorBytes k hi, crc32_xorBytes (oneBit_length s.length i k).symm, crcLinear_oneBit hi hk]
  exact xor_ne_self (crcShifts_ne_zero _ (by decide))

/-- A legal frame's checksum field, read as a number. -/
theorem LegalFrame.crc_eq {f : List Byte} (h : LegalFrame f) :
    crc32 (slice f 0 (f.length - 4)) = unbe32 (slice f (f.length - 4) f.length) := by
  obtain ⟨-, -, hc⟩ := h
  rw [hc, unbe32_be32]

/-- A flip in the body changes the checksum computed; a flip in the checksum field changes the one found. -/
theorem LegalFrame.crc_flipBit_ne {f : List Byte} {i k : Nat} (h : LegalFrame f) (hi : i < f.length) (hk : k < 8) :
    crc32 (slice (flipBit f i k) 0 (f.length - 4)) ≠ unbe32 (slice (flipBit f i k) (f.length - 4) f.length) := by
  have hcrc := h.crc_eq
  obtain ⟨hlen, -, hc⟩ := h
  by_cases hbody : i < f.length - 4
  · rw [slice_flipBit_inside f k (Nat.zero_le i) hbody, slice_flipBit_before f _ k hbody, ← hcrc]
    exact crc32_flipBit_ne (by rw [slice_length]; omega) hk
  · rw [slice_flipBit_after f 0 k (by omega), slice_flipBit_inside f k (by omega) hi]
    intro heq
    have hfield := congrArg be32 heq
    rw [be32_unbe32_of_length (by rw [flipBit_length, slice_length]; omega), ← hc] at hfield
    exact flipBit_ne_self (by rw [slice_length]; omega) hk hfield.symm

theorem decodeRaw_flipBit_msgLen {f : List Byte} {k : Nat} (h : LegalFrame f) (hk : k < 8) :
    decodeRaw (flipBit f 6 k) = .error .lengthMismatch := by
  obtain ⟨hlen, hm, -⟩ := h
  apply decodeRaw_lengthMismatch
  · rw [flipBit_length]; omega
  · rw [flipBit_length, flipBit_getD_self (by omega), ← hm]
    exact fun heq => xor_ne_self (bit_ne_zero hk) (BitVec.eq_of_toNat_eq heq.symm)

theorem decodeRaw_flipBit_other {f : List Byte} {i k : Nat} (h : LegalFrame f) (hi : i < f.length) (h6 : i ≠ 6)
    (hk : k < 8) : decodeRaw (flipBit f i k) = .error .checksumFailed := by
  have hne := h.crc_flipBit_ne hi hk
  obtain ⟨hlen, hm, -⟩ := h
  apply decodeRaw_checksumFailed
  · rwa [flipBit_length]
  · rw [flipBit_length, flipBit_getD_other f h6, hm]
  · rwa [flipBit_length]

/-- Settles O36: byte 6 no longer fits the length; elsewhere the length checks pass as before and the checksum differs. -/
theorem oneFlippedBitIsRejected : Obligations.OneFlippedBitIsRejected := by
  intro f i k h hi hk
  refine ⟨?_, fun h6 => decodeRaw_flipBit_other h hi h6 hk⟩
  rintro rfl
  exact decodeRaw_flipBit_msgLen h hk

end Sys2Proof.Machine
end

section
/-!
PROOFS. The command `DECODE` is the function `decode` on `RXBUF[0 .. RX_LEN)` (R168, R169), and reads just what its steps
need (R205 to R207, R45).
-/

namespace Sys2Proof.Machine

/-! ### The outcome -/

/-- The four decoder errors by their codes (R95, R201). -/
theorem code_of_decoder {e : Err} (h : e.raisedBy = .decoder) :
    e.code = 4#3 ∨ e.code = 5#3 ∨ e.code = 6#3 ∨ e.code = 7#3 := by
  cases e with
  | formatError | sizeError => cases h
  | tooShort | lengthMismatch | unknownPayloadShape | checksumFailed => decide

/-- Settles O38: on defined bytes `DECODE` is `decode`, and every other completion is a decoder error raised. -/
theorem decodeCommandIsDecodeFunction : Obligations.DecodeCommandIsDecodeFunction := by
  refine ⟨fun s raw hl hr => execDecode_decodedAs hl hr, fun s t h hst => ?_⟩
  obtain ⟨e, he, rfl⟩ | ⟨raw, v, -, rfl⟩ := decode_effect h
  · obtain ⟨hcode, hrec⟩ := raise_decodedAs he s
    exact ⟨hcode ▸ code_of_decoder he, hrec, raise_onlyDecoder he s⟩
  · exact absurd (putRecord_decStatus v s) hst

/-! ### What is read -/

/-- A completed `DECODE` that raised an error. -/
theorem exec_decode_raised {s : State} {e : Err} (he : e.raisedBy = .decoder) (h : execDecode s = .next (raise e s)) :
    ∃ t, exec .decode s = .next t ∧ DecodedAs t (.error e) ∧ OnlyDecoderChanged s t :=
  ⟨_, h, raise_decodedAs he s, raise_onlyDecoder he s⟩

/-- A read of bytes one of which is invalid is refused, and so is all that waits for it (R45). -/
theorem readRefused_memRead_andThen {β : Type} {b : Buf} {n k : Nat} {s : State}
    {f : List Byte → Host.Outcome β Fault Refusal} (hn : n ≤ bufSize b) (hk : k < n)
    (hnone : (s.buf b).read k = none) : ReadRefused (andThen (memRead b 0 n s) f) := by
  obtain ⟨bs, -, hl, hb⟩ | ⟨j, -, -, h⟩ := memRead_cases (b := b) (i := 0) (n := n) s (by omega)
  · exact absurd hnone (hb.read_ne_none (hl ▸ hk))
  · exact ⟨_, by rw [h, andThen_refused]⟩

/-- `DECODE` reads the header as soon as `RX_LEN` is 11 or more (R168). -/
theorem readRefused_execDecode_of_header {s : State} {k : Nat} (h : 11 ≤ s.rxLen.toNat) (hk : k < 7)
    (hnone : s.rxbuf.read k = none) : ReadRefused (execDecode s) := by
  rw [execDecode, if_neg (by simpa using h)]
  exact readRefused_memRead_andThen (b := .rxbuf) (by simp [bufSize]) hk hnone

/-- `DECODE` reads all `RX_LEN` bytes when steps 3 and 4 pass (R168). -/
theorem readRefused_execDecode_of_body {s : State} {header : List Byte} {k : Nat} (h : 11 ≤ s.rxLen.toNat)
    (hl : header.length = 7) (hh : HoldsBytes s.rxbuf 0 header)
    (hpass : lengthAndShape s.rxLen.toNat (header.getD 6 0#8) = none) (hk : k < s.rxLen.toNat)
    (hnone : s.rxbuf.read k = none) : ReadRefused (execDecode s) := by
  have hhdr : memRead .rxbuf 0 Config.hdrLen s = .next header := by
    rw [show Config.hdrLen = header.length from hl.symm]
    exact memRead_of_holds (by simp [bufSize, hl]) hh
  have hshape := lengthAndShape_eq_none.1 hpass
  rw [execDecode, if_neg (by simpa using h), hhdr, andThen_next, hpass]
  exact readRefused_memRead_andThen (b := .rxbuf) (by simp [bufSize]; omega) hk hnone

/-- A run of bytes from offset 0 is defined, or one of them is invalid. -/
theorem holdsBytes_or_missing (m : Memory) (n : Nat) :
    (∃ bs : List Byte, bs.length = n ∧ HoldsBytes m 0 bs) ∨ ∃ k, k < n ∧ m.read k = none := by
  obtain ⟨bs, -, hl, hb⟩ | ⟨k, hk, hnone, -⟩ := readCells_cases .rxbuf m 0 n
  · exact .inl ⟨bs, hl, fun k hk => hb k (hl ▸ hk)⟩
  · exact .inr ⟨k, hk, by simpa using hnone⟩

theorem HoldsBytes.read_eq_getD {m : Memory} {bs : List Byte} {k : Nat} (h : HoldsBytes m 0 bs) (hk : k < bs.length) :
    m.read k = some (bs.getD k 0#8) := by
  rw [← Nat.zero_add k, h k hk, Nat.zero_add, List.getElem?_eq_getElem hk, List.getD_eq_getElem _ _ hk]

/-- With its header defined `DECODE` is refused exactly when steps 3 and 4 pass and one of the `RX_LEN` bytes is
invalid. -/
theorem readRefused_execDecode_iff_of_header {s : State} {header : List Byte} (h : 11 ≤ s.rxLen.toNat)
    (hl : header.length = 7) (hh : HoldsBytes s.rxbuf 0 header) :
    ReadRefused (execDecode s) ↔
      lengthAndShape s.rxLen.toNat (header.getD 6 0#8) = none ∧ ∃ k, k < s.rxLen.toNat ∧ s.rxbuf.read k = none := by
  cases hs : lengthAndShape s.rxLen.toNat (header.getD 6 0#8) with
  | some e => exact iff_of_false (execDecode_header h hl hh hs ▸ not_readRefused_next _) (by simp)
  | none =>
    obtain ⟨raw, hrl, hr⟩ | ⟨k, hk, hnone⟩ := holdsBytes_or_missing s.rxbuf s.rxLen.toNat
    · refine iff_of_false (execDecode_of_holds hrl.symm hr ▸ not_readRefused_next _) ?_
      rintro ⟨-, k, hk, hnone⟩
      exact hr.read_ne_none (hrl ▸ hk) hnone
    · exact iff_of_true (readRefused_execDecode_of_body h hl hh hs hk hnone) ⟨rfl, k, hk, hnone⟩

/-- When `DECODE` is refused (R168, row U1). -/
theorem readRefused_execDecode (s : State) : ReadRefused (execDecode s) ↔
    11 ≤ s.rxLen.toNat ∧
      ((∃ k, k < 7 ∧ s.rxbuf.read k = none) ∨
        ∃ m : Byte, s.rxbuf.read 6 = some m ∧ s.rxLen.toNat - 11 = m.toNat ∧ (m.toNat = 3 ∨ m.toNat = 8) ∧
          ∃ k, k < s.rxLen.toNat ∧ s.rxbuf.read k = none) := by
  by_cases hshort : s.rxLen.toNat < 11
  · exact iff_of_false (execDecode_short hshort ▸ not_readRefused_next _) (by omega)
  have h : 11 ≤ s.rxLen.toNat := by omega
  obtain ⟨header, hl, hh⟩ | ⟨k, hk, hnone⟩ := holdsBytes_or_missing s.rxbuf 7
  · have hdefined : ¬ ∃ k, k < 7 ∧ s.rxbuf.read k = none := fun ⟨k, hk, hnone⟩ => hh.read_ne_none (hl ▸ hk) hnone
    rw [readRefused_execDecode_iff_of_header h hl hh, lengthAndShape_eq_none, hh.read_eq_getD (by omega)]
    simp [h, hdefined, and_assoc]
  · exact iff_of_true (readRefused_execDecode_of_header h hk hnone) ⟨h, .inl ⟨k, hk, hnone⟩⟩

/-- Settles O39: `RX_LEN` decides step 2 and the header steps 3 and 4; the later bytes are read only when these pass. -/
theorem decodeReadsOnlyWhatItsStepsNeed : Obligations.DecodeReadsOnlyWhatItsStepsNeed := by
  intro s
  refine ⟨fun h => exec_decode_raised rfl (execDecode_short h), fun header h hl hh => ⟨fun hm => ?_, fun hm h14 h19 => ?_⟩,
    readRefused_execDecode s⟩
  · exact exec_decode_raised rfl (execDecode_header h hl hh (lengthAndShape_mismatch hm))
  · exact exec_decode_raised rfl (execDecode_header h hl hh (lengthAndShape_unknown hm (by omega) (by omega)))

end Sys2Proof.Machine
end

section
/-!
PROOFS. The payload demultiplexer undoes the payload encoder and is defined on just the two shapes (R180, R186, R187).
-/

namespace Sys2Proof.Machine

/-- `demux` gives back the body whose bytes it is told (R186). -/
theorem demux_bytes (body : Body) : demux body.bytes.length body.bytes = some body := by
  cases body with
  | present rssi chan a =>
    simp [Body.bytes, payloadPresent, addressBytes, demux, Config.lenPresent]
  | absent x y z => rfl

/-- `demux` is defined only for the payload's own length, and only when that is one of the two shapes (R180). -/
theorem demux_some_shape {m : Nat} {p : List Byte} {body : Body} (h : demux m p = some body) :
    m = p.length ∧ (m = 8 ∨ m = 3) := by
  unfold demux at h
  split at h
  · split_ifs at h with hm
    exact ⟨hm, .inl hm⟩
  · split_ifs at h with hm
    exact ⟨hm, .inr hm⟩
  · cases h

theorem exists_demux_iff (m : Nat) (p : List Byte) :
    (∃ body, demux m p = some body) ↔ m = p.length ∧ (m = 8 ∨ m = 3) := by
  constructor
  · rintro ⟨body, h⟩
    exact demux_some_shape h
  · rintro ⟨rfl, hshape⟩
    obtain ⟨body, h, -⟩ := demux_defined hshape.symm
    exact ⟨body, h⟩

/-- The bytes of what `demux` gives are the payload (R187). -/
theorem bytes_of_demux {m : Nat} {p : List Byte} {body : Body} (h : demux m p = some body) : body.bytes = p := by
  obtain ⟨rfl, hshape⟩ := demux_some_shape h
  obtain ⟨body', h', hbytes⟩ := demux_defined hshape.symm
  obtain rfl : body = body' := Option.some.inj (h.symm.trans h')
  exact hbytes

/-- Settles O37: the payloads built are the bytes of a body, which `demux` gives back. -/
theorem demuxUndoesPayloadEncoder : Obligations.DemuxUndoesPayloadEncoder :=
  ⟨fun rssi chan a => demux_bytes (.present rssi chan a), fun na => demux_bytes (.absent na na na),
    fun x y z => demux_bytes (.absent x y z), exists_demux_iff, fun _ _ _ => bytes_of_demux⟩

end Sys2Proof.Machine
end

section
/-!
PROOFS. Transactions of the host that complete: none left (R198, R211), `NOP` (R190), a reserved word (R191), a register
written (R192), a buffer byte written and read (R194).
-/

namespace Sys2Proof.Machine

/-! ### No transaction, no operation -/

/-- Settles O5: with an empty script there is no transaction to take. -/
theorem noTransactionNoChange : Obligations.NoTransactionNoChange := fun _ => step_nil

theorem exec_nop (s : State) : exec .nop s = .next s := rfl

/-- Settles O22: the word is `NOP`'s own, and `NOP` writes nothing. -/
theorem nopChangesNothing : Obligations.NopChangesNothing := ⟨decodeOfEncode .nop, exec_nop⟩

/-! ### A reserved word -/

/-- A reserved word runs no command; it sets `FAULT.ILLCMD` (R191). -/
theorem runTxn_reservedWord {w : Half} (s : State) (h : ReservedWord w) :
    runTxn (.wr 0 w.toNat) s = .next (setIllCmd s) := by
  obtain ⟨e, he⟩ := (reservedWordsAreTheUndecodable w).mpr h
  exact (hostWrite_cmd w s).trans (writeCommand_reserved s he)

theorem getLsbD_of_and_eq_left {w k : Nat} {x y : BitVec w} (h : x &&& y = x) (hx : x.getLsbD k = true) :
    y.getLsbD k = true := by
  rw [← h, BitVec.getLsbD_and, Bool.and_eq_true] at hx
  exact hx.2

/-- Settles O47: a reserved word decodes to no command, and of all steps only reset clears a bit of `FAULT`. -/
theorem reservedWordSetsIllCmdOnly : Obligations.ReservedWordSetsIllCmdOnly := by
  refine ⟨fun s w => runTxn_reservedWord s, fun s t x rest hs hr hst => ?_, .inl (by decide), .inr (by decide)⟩
  obtain ⟨hkept, -⟩ := faultBitsAreSticky s t x rest hs hr hst
  exact getLsbD_of_and_eq_left hkept

/-! ### A register written -/

/-- What each register reads as after a store into an `RW` register other than `RX_LEN` (R192, R193). -/
theorem readReg_storeReg {r : Reg} (r' : Reg) (v : Nat) (s : State) (h : regAccess r = .rw) (hr : r ≠ .rxLen) :
    readReg r' (storeReg r v s) = if r' = r then .next (v % 2 ^ regWidth r) else readReg r' s := by
  cases r with
  | rxLen => exact absurd rfl hr
  | measFound | rssi | chan | bssid0 | bssid1 | bssid2 | bssid3 | bssid4 | bssid5 | measNa | nodeId | msgCnt | plLen =>
    cases r' <;> rfl
  | _ => cases h

/-- A store into a register other than `RX_LEN` leaves the buffers and the host's own lists alone. -/
theorem storeReg_keeps_buffers_and_lists {r : Reg} (v : Nat) (s : State) (hr : r ≠ .rxLen) :
    (storeReg r v s).plbuf = s.plbuf ∧ (storeReg r v s).txbuf = s.txbuf ∧ (storeReg r v s).rxbuf = s.rxbuf ∧
      (storeReg r v s).script = s.script ∧ (storeReg r v s).returned = s.returned := by
  cases r with
  | rxLen => exact absurd rfl hr
  | _ => exact ⟨rfl, rfl, rfl, rfl, rfl⟩

/-- Settles O50: a fitting write of an `RW` register is a store, which names that register's field alone. -/
theorem hostWriteThenRead : Obligations.HostWriteThenRead := by
  refine ⟨fun v s => ?_, fun r v s h hr hv => ?_⟩
  · have hw (r : Reg) (h : regAccess r = .rw) (hv : v < 2 ^ regWidth r) :
        runTxn (.wr (regNum r) v) s = .next (storeReg r v s) := runTxn_scriptWrite s h hv
    exact ⟨hw .measFound rfl, hw .rssi rfl, hw .chan rfl, hw .bssid0 rfl, hw .bssid1 rfl, hw .bssid2 rfl,
      hw .bssid3 rfl, hw .bssid4 rfl, hw .bssid5 rfl, hw .measNa rfl, hw .nodeId rfl, hw .msgCnt rfl, hw .plLen rfl⟩
  · refine ⟨storeReg r v s, runTxn_scriptWrite s h hv, ?_, fun r' hne => ?_, storeReg_keeps_buffers_and_lists v s hr⟩
    · rw [readReg_storeReg r v s h hr, if_pos rfl, Nat.mod_eq_of_lt hv]
    · rw [readReg_storeReg r' v s h hr, if_neg hne]

/-! ### A buffer byte written and read -/

@[simp] theorem buf_setBuf (s : State) (b : Buf) (m : Memory) : (s.setBuf b m).buf b = m := by cases b <;> rfl

/-- `WB` of a byte inside a writable buffer writes that byte of the buffer alone (R194). -/
theorem hostWriteByte_inside {b : Buf} {i : Nat} (v : Byte) (s : State) (hb : b ≠ .txbuf) (hi : i < bufSize b) :
    hostWriteByte b i v.toNat s = .next (s.setBuf b ((s.buf b).write i v)) := by
  rw [hostWriteByte_of_lt i s hb v.isLt, BitVec.ofNat_toNat, BitVec.setWidth_eq, memWrite_inside s hi]; rfl

theorem memRead_one {b : Buf} {i : Nat} (s : State) (hi : i < bufSize b) :
    memRead b i 1 s = readCells b (s.buf b) i 1 := if_pos hi

/-- `RB` of a defined byte gives it to the host (R194). -/
theorem hostReadByte_of_read_eq_some {b : Buf} {i : Nat} {v : Byte} {s : State} (hi : i < bufSize b)
    (h : (s.buf b).read i = some v) : hostReadByte b i s = .next (noteReturned [v.toNat] s) := by
  rw [hostReadByte, memRead_one s hi, readCells, h]; rfl

/-- `RB` of an invalid byte is refused (R45). -/
theorem hostReadByte_of_read_eq_none {b : Buf} {i : Nat} {s : State} (hi : i < bufSize b)
    (h : (s.buf b).read i = none) : hostReadByte b i s = .refused (.invalidRead (.byte b i)) := by
  rw [hostReadByte, memRead_one s hi, readCells, h]; rfl

/-- Settles O52: a byte write is a write of one offset of its buffer, and a byte read looks at one offset. -/
theorem bufferByteWriteAndRead : Obligations.BufferByteWriteAndRead := by
  refine ⟨fun b i v s hb hi => ?_, fun b i s hi =>
    ⟨fun v => hostReadByte_of_read_eq_some hi, hostReadByte_of_read_eq_none hi⟩⟩
  refine ⟨s.setBuf b ((s.buf b).write i v), hostWriteByte_inside v s hb hi, ?_⟩
  rw [buf_setBuf]
  exact ⟨Memory.read_write_same _ i v, fun j hj => Memory.read_write_other _ v hj, rfl⟩

end Sys2Proof.Machine
end

section
/-!
PROOFS. How an instruction can end (R45, R200).
-/

namespace Sys2Proof.Machine

/-- Settles O55: an instruction that answers no next state is one that `exec_stops` finds refused at an invalid read. -/
theorem instructionsStopOnlyOnInvalidReads : Obligations.InstructionsStopOnlyOnInvalidReads := by
  intro i s
  by_cases hnext : ∃ t, exec i s = .next t
  · exact .inl hnext
  · exact .inr (exec_stops (not_exists.mp hnext))

end Sys2Proof.Machine
end

section
/-!
PROOFS. What `RESET` leaves (R231): the values of the rule and the invariant. The reset state is its own reset, so both
hold of it too.
-/

namespace Sys2Proof.Machine

theorem runTxn_reset (s : State) : runTxn .reset s = .next (applyReset s) := rfl

theorem applyReset_reset : applyReset State.reset = State.reset := rfl

theorem presentOperandsAllInvalid_applyReset (s : State) : PresentOperandsAllInvalid (applyReset s) :=
  ⟨rfl, rfl, rfl, rfl, rfl, rfl, rfl, rfl⟩

theorem noRecord_applyReset (s : State) : NoRecord (applyReset s) :=
  ⟨rfl, rfl, rfl, rfl, rfl, rfl, rfl, rfl, rfl, rfl, rfl, rfl, rfl, rfl⟩

/-- `CRC_OUT` reads 0 after a reset: the initial value of the accumulator is the output mask (R231, R26). -/
theorem readReg_crcOut_applyReset (s : State) : readReg .crcOut (applyReset s) = .next 0 := by
  rw [readReg_crcOut, applyReset_crcAcc, State.reset, Config.crcInitVal, Config.crcXorOut, BitVec.xor_self]; rfl

theorem resetValues_applyReset (s : State) : ResetValues (applyReset s) :=
  ⟨rfl, rfl, rfl, rfl, rfl, rfl, rfl, rfl, presentOperandsAllInvalid_applyReset s, rfl, rfl, rfl,
    noRecord_applyReset s, holdsExactly_nil, holdsExactly_nil, holdsExactly_nil, rfl, readReg_crcOut_applyReset s⟩

theorem inv_applyReset (s : State) : Inv (applyReset s) :=
  ⟨buffersInv_applyReset s, encoderInv_applyReset s, decoderInv_applyReset s⟩

/-- Settles O46: `RESET` answers `applyReset`, whose block state does not depend on the state before. -/
theorem resetGivesResetState : Obligations.ResetGivesResetState :=
  ⟨applyReset_reset ▸ resetValues_applyReset State.reset, fun s =>
    ⟨applyReset s, runTxn_reset s, resetValues_applyReset s⟩⟩

/-- Settles O60: `RESET` establishes the invariant from every state, the reset state among them. -/
theorem resetMeetsTheInvariant : Obligations.ResetMeetsTheInvariant := by
  rw [Obligations.ResetMeetsTheInvariant, ← applyReset_reset]
  exact inv_applyReset State.reset

end Sys2Proof.Machine
end
